-- ==== Sys2Proof/Word.lean ====
section
/-! DEFINITION. The bit-vector widths of the hardware (00_scope.md R9).

A bit vector `v` of the spec (00_scope.md R12), written with element 0 leftmost, is a `BitVec` whose
most significant bit is element 0, so that `uint_n(v)` of 00_scope.md R13 is `v.toNat`. -/

namespace Sys2Proof

/-- An 8-bit unsigned integer, the value of an integer cell (00_scope.md R9 `IW`; 10_state.md R35). -/
abbrev Byte := BitVec 8

/-- A 6-bit SM input (00_scope.md R24 "code word"). -/
abbrev CodeWord := BitVec 6

/-- The `K = 6` data bits of the code (00_scope.md R9). A decoded data word is what the host forwards
as a code word (00_scope.md R4), so the two are one type. -/
abbrev DataWord := BitVec 6

/-- The `N = 10` bits of a systematic codeword (00_scope.md R9, R24 "codeword"). -/
abbrev BlockWord := BitVec 10

/-- The `NCH = 11` bits of a channel word (00_scope.md R9; 30_encoding.md R61). -/
abbrev ChannelWord := BitVec 11

/-- The `R = 4` bits of a syndrome (00_scope.md R9). -/
abbrev Syndrome := BitVec 4

end Sys2Proof
end

