-- ==== Sys2Proof/Syntax.lean ====
section
/-! DEFINITION. The token set and the instructions: one constructor of `Instr` for each of the 49
rows of spec/opcode_table.json (30_encoding.md R75). -/

namespace Sys2Proof

/-- The token set of 00_scope.md R19 and 10_state.md R34: the 26 uppercase letters and SPACE. -/
inductive Token where
  | A
  | B
  | C
  | D
  | E
  | F
  | G
  | H
  | I
  | J
  | K
  | L
  | M
  | N
  | O
  | P
  | Q
  | R
  | S
  | T
  | U
  | V
  | W
  | X
  | Y
  | Z
  | SPACE
deriving DecidableEq, Repr

/-- The instructions of the hardware, one constructor per row of the opcode table (30_encoding.md
R65, R66, R67). -/
inductive Instr where
  /-- `PUSH n`: the operand literal, its four free bits (30_encoding.md R64; 41_stack_ops.md R97). -/
  | push (n : BitVec 4)
  /-- `STP`: stop cleanly (41_stack_ops.md R100). -/
  | stp
  /-- `DUP`: duplicate the top cell (41_stack_ops.md R101). -/
  | dup
  /-- `DEL`: discard the top cell (41_stack_ops.md R102). -/
  | del
  /-- `SWP`: exchange the two top cells (41_stack_ops.md R103). -/
  | swp
  /-- `ADD` (42_arithmetic.md R114). -/
  | add
  /-- `SUB` (42_arithmetic.md R115). -/
  | sub
  /-- `MUL` (42_arithmetic.md R116). -/
  | mul
  /-- `DIV` (42_arithmetic.md R117). -/
  | div
  /-- `EXP` (42_arithmetic.md R118). -/
  | exp
  /-- `MOD` (42_arithmetic.md R119). -/
  | mod
  /-- `SHL` (42_arithmetic.md R120). -/
  | shl
  /-- `SHR` (42_arithmetic.md R121). -/
  | shr
  /-- `HEX`: two hex-digit characters to an integer (43_logic_convert.md R132). -/
  | hex
  /-- `IEQ`: integer equality (43_logic_convert.md R133). -/
  | ieq
  /-- `NOT`: 8-bit one's complement (43_logic_convert.md R134). -/
  | not
  /-- `XOR`: bitwise exclusive or (43_logic_convert.md R135). -/
  | xor
  /-- `CHR A`: push the character A (41_stack_ops.md R98). -/
  | chrA
  /-- `CHR B`: push the character B (41_stack_ops.md R98). -/
  | chrB
  /-- `CHR C`: push the character C (41_stack_ops.md R98). -/
  | chrC
  /-- `CHR D`: push the character D (41_stack_ops.md R98). -/
  | chrD
  /-- `CHR E`: push the character E (41_stack_ops.md R98). -/
  | chrE
  /-- `CHR F`: push the character F (41_stack_ops.md R98). -/
  | chrF
  /-- `CHR G`: push the character G (41_stack_ops.md R98). -/
  | chrG
  /-- `CHR H`: push the character H (41_stack_ops.md R98). -/
  | chrH
  /-- `CHR I`: push the character I (41_stack_ops.md R98). -/
  | chrI
  /-- `CHR J`: push the character J (41_stack_ops.md R98). -/
  | chrJ
  /-- `CHR K`: push the character K (41_stack_ops.md R98). -/
  | chrK
  /-- `CHR L`: push the character L (41_stack_ops.md R98). -/
  | chrL
  /-- `CHR M`: push the character M (41_stack_ops.md R98). -/
  | chrM
  /-- `CHR N`: push the character N (41_stack_ops.md R98). -/
  | chrN
  /-- `CHR O`: push the character O (41_stack_ops.md R98). -/
  | chrO
  /-- `CHR P`: push the character P (41_stack_ops.md R98). -/
  | chrP
  /-- `CHR Q`: push the character Q (41_stack_ops.md R98). -/
  | chrQ
  /-- `CHR R`: push the character R (41_stack_ops.md R98). -/
  | chrR
  /-- `CHR S`: push the character S (41_stack_ops.md R98). -/
  | chrS
  /-- `CHR T`: push the character T (41_stack_ops.md R98). -/
  | chrT
  /-- `CHR U`: push the character U (41_stack_ops.md R98). -/
  | chrU
  /-- `CHR V`: push the character V (41_stack_ops.md R98). -/
  | chrV
  /-- `CHR W`: push the character W (41_stack_ops.md R98). -/
  | chrW
  /-- `CHR X`: push the character X (41_stack_ops.md R98). -/
  | chrX
  /-- `CHR Y`: push the character Y (41_stack_ops.md R98). -/
  | chrY
  /-- `CHR Z`: push the character Z (41_stack_ops.md R98). -/
  | chrZ
  /-- `CHR SPACE`: push the space token (41_stack_ops.md R98). -/
  | chrSpace
  /-- `NOP0` (41_stack_ops.md R99). -/
  | nop0
  /-- `NOP1` (41_stack_ops.md R99). -/
  | nop1
  /-- `NOP2` (41_stack_ops.md R99). -/
  | nop2
  /-- `NOP3` (41_stack_ops.md R99). -/
  | nop3
  /-- `SPEAK`: announce the text of the counted cells (44_speak_top.md R146). -/
  | speak
deriving DecidableEq, Repr

end Sys2Proof
end

