-- ==== Sys2Proof/Config.lean ====
section
/-! DEFINITION. The implementation parameters of 00_scope.md R10. They are plain data, fixed for an
instance; their values for this hardware are `Sys2Proof.Machine.referenceConfig`. -/

namespace Sys2Proof

/-- The 6 by 4 parity block over GF(2), a row `P[j]` a 4-bit vector (10_state.md R25, R27). -/
abbrev ParityBlock := Vector (BitVec 4) 6

/-- A 6 by 10 matrix over GF(2) by rows: a seed or a generator matrix (40_codec.md R76). -/
abbrev GeneratorMatrix := Vector BlockWord 6

/-- A partial map from 6-bit patterns to actions (00_scope.md R10 `OPMAP`, `CHARMAP`): the first
entry of a pattern counts (log 14). -/
abbrev CodeMap := List (CodeWord × Instr)

/-- The configuration parameters of 00_scope.md R10. -/
structure Config where
  /-- `PARITY_P`, the parity block. -/
  parityP : ParityBlock
  /-- `SEED`: when given, the matrices come from it (40_codec.md R76). -/
  seed : Option GeneratorMatrix
  /-- `OPMAP`, the patterns `01xxxx`. -/
  opmap : CodeMap
  /-- `CHARMAP`, the patterns `1xxxxx`. -/
  charmap : CodeMap
  /-- `STACK_DEPTH`: `none` is `UNBOUNDED` (10_state.md R33). -/
  stackDepth : Option Nat
deriving DecidableEq, Repr

end Sys2Proof
end

