-- ==== Sys2Proof/Machine/Bits.lean ====
section
/-! DEFINITION. Elements, units and parity of bit vectors (00_scope.md R12 to R15), and the class of a
6-bit code word (30_encoding.md R63). -/

namespace Sys2Proof

/-- `v⟨i⟩`, element 0 the most significant bit (00_scope.md R12, R13). -/
def elem {n : Nat} (v : BitVec n) (i : Nat) : Bool := v.getMsbD i

/-- The elements `v⟨0⟩ … v⟨n-1⟩` in order (00_scope.md R12; 20_memory.md R51). -/
def elems {n : Nat} (v : BitVec n) : List Bool := (List.range n).map (elem v)

/-- The unsigned integer of a list of bits, the first one most significant (00_scope.md R13). -/
def uintOf (bs : List Bool) : Nat := bs.foldl (fun a b => 2 * a + b.toNat) 0

/-- The `n`-bit vector with the given elements; `none` when there are not exactly `n` of them
(20_memory.md R54). -/
def ofElems (n : Nat) (bs : List Bool) : Option (BitVec n) :=
  if bs.length = n then some (BitVec.ofNat n (uintOf bs)) else none

/-- The unit vector of length `n` with a 1 at index `i` (10_state.md R25). -/
def unitVec (n i : Nat) : BitVec n := BitVec.twoPow n (n - 1 - i)

/-- `v` with element `i` inverted, for `i < n` (40_codec.md R82). -/
def flipAt {n : Nat} (v : BitVec n) (i : Nat) : BitVec n := v ^^^ unitVec n i

/-- The XOR of all elements, `Σ v⟨i⟩ (mod 2)` (00_scope.md R15). -/
def parity {n : Nat} (v : BitVec n) : Bool := (elems v).foldl Bool.xor false

/-- A vector times a matrix over GF(2), the matrix given by its rows: the XOR of the rows whose
coefficient is 1 (00_scope.md R15). -/
def rowComb {m : Nat} : List Bool → List (BitVec m) → BitVec m
  | b :: bs, r :: rs => (if b then r else 0#m) ^^^ rowComb bs rs
  | _, _ => 0#m

/-- The three classes of code words (30_encoding.md R63). -/
inductive WordClass where
  /-- `00xxxx` -/
  | operand
  /-- `01xxxx` -/
  | instruction
  /-- `1xxxxx` -/
  | character
deriving DecidableEq, Repr

/-- The class of a code word, selected by `w⟨0⟩ w⟨1⟩` (30_encoding.md R63). -/
def classOf (w : CodeWord) : WordClass :=
  match elem w 0, elem w 1 with
  | false, false => .operand
  | false, true => .instruction
  | true, _ => .character

end Sys2Proof
end

