-- ==== Sys2Proof/Machine/Codec.lean ====
section
/-! DEFINITION. The codec unit: its matrices (10_state.md R25), their construction from a seed
(40_codec.md R76), and the operations ENC and DEC (40_codec.md R79 to R85). -/

namespace Sys2Proof

/-- The three outcomes of DEC (00_scope.md R21; 40_codec.md R81). -/
inductive DecodeOutcome where
  | valid
  | corrected
  | uncorrectable
deriving DecidableEq, Repr

/-- The codec matrices of 10_state.md R25, by rows. -/
structure Matrices where
  /-- `G`, the 6 by 10 generator matrix. -/
  g : GeneratorMatrix
  /-- `H`, the 4 by 10 parity-check matrix. -/
  h : Vector BlockWord 4
  /-- `Hᵗ`, the 10 by 4 transpose of `H`. -/
  ht : Vector Syndrome 10
deriving DecidableEq, Repr

namespace Machine

/-- `G = [I_6 | P]` (10_state.md R25). -/
def generatorOf (P : ParityBlock) : GeneratorMatrix :=
  Vector.ofFn fun j => unitVec 6 j.val ++ P[j]

/-- `Hᵗ`: the rows of `P`, then the four unit vectors (10_state.md R25). -/
def checkRowsOf (P : ParityBlock) : Vector Syndrome 10 :=
  P ++ Vector.ofFn fun m : Fin 4 => unitVec 4 m.val

/-- Row `k` of `Pᵗ`: column `k` of `P` (10_state.md R25). -/
def columnOf (P : ParityBlock) (k : Nat) : BitVec 6 :=
  BitVec.ofNat 6 (uintOf (P.toList.map fun r => elem r k))

/-- `H = [Pᵗ | I_4]` (10_state.md R25). -/
def parityCheckOf (P : ParityBlock) : Vector BlockWord 4 :=
  Vector.ofFn fun k => columnOf P k.val ++ unitVec 4 k.val

/-- The matrices of a parity block (10_state.md R25). -/
def matricesOf (P : ParityBlock) : Matrices :=
  { g := generatorOf P, h := parityCheckOf P, ht := checkRowsOf P }

/-- Columns 6 to 9 of a generator matrix (40_codec.md R76). -/
def parityBlockOf (G : GeneratorMatrix) : ParityBlock :=
  Vector.ofFn fun j => (G[j]).extractLsb' 0 4

/-- `M[dst] <- M[dst] ⊕ M[src]`, the only row operation of 40_codec.md R76. -/
def addRow (M : GeneratorMatrix) (dst src : Fin 6) : GeneratorMatrix :=
  M.set dst (M[dst] ^^^ M[src])

/-- The pivot step of 40_codec.md R76 for column `c`: the least row below with a 1 is added when
`M[c][c] = 0`; `none` when there is none. -/
def pivotStep (M : GeneratorMatrix) (c : Fin 6) : Option GeneratorMatrix :=
  if elem M[c] c.val then some M
  else
    match (List.finRange 6).find? (fun r => decide (c < r) && elem M[r] c.val) with
    | some r => some (addRow M c r)
    | none => none

/-- The clearing loop of 40_codec.md R76 for column `c`. -/
def clearColumn (M : GeneratorMatrix) (c : Fin 6) : GeneratorMatrix :=
  (List.finRange 6).foldl
    (fun M r => if r ≠ c ∧ elem M[r] c.val = true then addRow M r c else M) M

/-- One round of the elimination of 40_codec.md R76. -/
def eliminateColumn (M : GeneratorMatrix) (c : Fin 6) : Option GeneratorMatrix :=
  (pivotStep M c).map fun M => clearColumn M c

/-- `Construct(SEED)` of 40_codec.md R76: Gaussian elimination by row XORs until the left block is the
identity; `none` when the left block is singular. -/
def systematic (seed : GeneratorMatrix) : Option GeneratorMatrix :=
  (List.finRange 6).foldlM eliminateColumn seed

/-- The matrices of a configuration (40_codec.md R76, R77; 70_reset_and_hazards.md R179): from `SEED`
when it is given, from `PARITY_P` otherwise (log 15). -/
def buildMatrices (c : Config) : Option Matrices :=
  match c.seed with
  | none => some (matricesOf c.parityP)
  | some seed => (systematic seed).map fun G => { matricesOf (parityBlockOf G) with g := G }

/-- The 10 codeword bits of ENC, `c⟨i⟩ = Σ_j d⟨j⟩·G[j][i]` (40_codec.md R79). -/
def codewordOf (M : Matrices) (d : DataWord) : BlockWord := rowComb (elems d) M.g.toList

/-- ENC (40_codec.md R79): the codeword, then its overall parity (30_encoding.md R61). -/
def enc (M : Matrices) (d : DataWord) : ChannelWord :=
  codewordOf M d ++ BitVec.ofBool (parity (codewordOf M d))

/-- The codeword part of a channel word, `r⟨0⟩ … r⟨9⟩` (30_encoding.md R62). -/
def blockOf (r : ChannelWord) : BlockWord := r.extractLsb' 1 10

/-- The candidate data word of a channel word, `r⟨0⟩ … r⟨5⟩` (30_encoding.md R62). -/
def dataOf (r : ChannelWord) : DataWord := r.extractLsb' 5 6

/-- The syndrome, `s⟨k⟩ = Σ_j c⟨j⟩·Hᵗ[j][k]` (40_codec.md R80). -/
def syndrome (M : Matrices) (c : BlockWord) : Syndrome := rowComb (elems c) M.ht.toList

/-- The row of `Hᵗ` equal to the syndrome (40_codec.md R82). DESIGN CHOICE (log 21): the least one where
several rows are equal, which no configuration that `powerOn` accepts has; the spec calls the location
not well defined there (00_scope.md R11). -/
def locate (M : Matrices) (s : Syndrome) : Option Nat := M.ht.toList.findIdx? fun row => row == s

/-- DEC's answer when the overall parity and the syndrome both speak of an error (40_codec.md R82,
R83): the located data bit is flipped back, or nothing is located. -/
def decSingle (M : Matrices) (d : DataWord) (s : Syndrome) : DataWord × DecodeOutcome :=
  match locate M s with
  | some j => (if j < 6 then flipAt d j else d, .corrected)
  | none => (d, .uncorrectable)

/-- DEC (40_codec.md R80, R81). The data word of an UNCORRECTABLE result is the received one (R84;
log 8). -/
def dec (M : Matrices) (r : ChannelWord) : DataWord × DecodeOutcome :=
  let s := syndrome M (blockOf r)
  match parity r, s != 0#4 with
  | false, false => (dataOf r, .valid)
  | true, false => (dataOf r, .corrected)
  | true, true => decSingle M (dataOf r) s
  | false, true => (dataOf r, .uncorrectable)

end Machine
end Sys2Proof
end

