-- ==== Sys2Proof/Machine/Tokens.lean ====
section
/-! DEFINITION. What the tokens stand for: their characters and ASCII codes (10_state.md R36), their
hex digit values (43_logic_convert.md R131), and which instructions push them. -/

namespace Sys2Proof

/-- The character of a token: the letter itself, or one space (44_speak_top.md R144). -/
def Token.char : Token → Char
  | .A => 'A'
  | .B => 'B'
  | .C => 'C'
  | .D => 'D'
  | .E => 'E'
  | .F => 'F'
  | .G => 'G'
  | .H => 'H'
  | .I => 'I'
  | .J => 'J'
  | .K => 'K'
  | .L => 'L'
  | .M => 'M'
  | .N => 'N'
  | .O => 'O'
  | .P => 'P'
  | .Q => 'Q'
  | .R => 'R'
  | .S => 'S'
  | .T => 'T'
  | .U => 'U'
  | .V => 'V'
  | .W => 'W'
  | .X => 'X'
  | .Y => 'Y'
  | .Z => 'Z'
  | .SPACE => ' '

/-- The payload of a character cell: the ASCII code of the token (10_state.md R36). -/
def Token.ascii (c : Token) : Byte := BitVec.ofNat 8 c.char.toNat

/-- The 27 tokens, in the order of 30_encoding.md R67. -/
def Token.all : List Token :=
  [.A, .B, .C, .D, .E, .F, .G, .H, .I, .J, .K, .L, .M] ++
  [.N, .O, .P, .Q, .R, .S, .T, .U, .V, .W, .X, .Y, .Z] ++ [.SPACE]

/-- `hexval` of 43_logic_convert.md R131 on characters: `0`–`9` and `A`–`F`; no other character has a
value. No token is a digit in this hardware (log 17). -/
def hexvalChar (c : Char) : Option Nat :=
  if 48 ≤ c.toNat ∧ c.toNat ≤ 57 then some (c.toNat - 48)
  else if 65 ≤ c.toNat ∧ c.toNat ≤ 70 then some (c.toNat - 55)
  else none

/-- `hexval` of a token (43_logic_convert.md R131). -/
def Token.hexval (c : Token) : Option Nat := hexvalChar c.char

/-- The token a `CHR` instruction pushes (41_stack_ops.md R98); `none` for every other instruction. -/
def Instr.token? : Instr → Option Token
  | .chrA => some .A
  | .chrB => some .B
  | .chrC => some .C
  | .chrD => some .D
  | .chrE => some .E
  | .chrF => some .F
  | .chrG => some .G
  | .chrH => some .H
  | .chrI => some .I
  | .chrJ => some .J
  | .chrK => some .K
  | .chrL => some .L
  | .chrM => some .M
  | .chrN => some .N
  | .chrO => some .O
  | .chrP => some .P
  | .chrQ => some .Q
  | .chrR => some .R
  | .chrS => some .S
  | .chrT => some .T
  | .chrU => some .U
  | .chrV => some .V
  | .chrW => some .W
  | .chrX => some .X
  | .chrY => some .Y
  | .chrZ => some .Z
  | .chrSpace => some .SPACE
  | .push _ | .stp | .dup | .del | .swp | .add | .sub | .mul | .div | .exp | .mod | .shl | .shr
  | .hex | .ieq | .not | .xor | .nop0 | .nop1 | .nop2 | .nop3 | .speak => none

/-- The four no-operations (30_encoding.md R67). -/
def Instr.isNop (i : Instr) : Bool := i == .nop0 || i == .nop1 || i == .nop2 || i == .nop3

end Sys2Proof
end

