-- ==== Sys2Proof/WellFormed.lean ====
section
/-! DEFINITION. What is well formed: an instruction under a pair of code maps (30_encoding.md R66 to
R69), and a configuration (00_scope.md R11). Each check is a Bool of its own. -/

namespace Sys2Proof

/-- An instruction is well formed under the maps `OPMAP` and `CHARMAP` when it has a code word: a
literal always has one (30_encoding.md R64), every other instruction when a map holds it. -/
def Instr.wf (opmap charmap : CodeMap) : Instr → Bool
  | .push _ => true
  | i => opmap.any (fun e => e.2 == i) || charmap.any (fun e => e.2 == i)

/-- An action `OPMAP` may hold: an opcode of the closed set of 30_encoding.md R65, neither a literal
push nor a character push (00_scope.md R11). -/
def Instr.isOpcode : Instr → Bool
  | .push _ => false
  | i => i.token?.isNone

/-- The patterns of a code map are distinct, so that it is a partial map (00_scope.md R10). -/
def CodeMap.distinctPatterns (m : CodeMap) : Bool := decide (m.map Prod.fst).Nodup

/-- Every pattern of a code map is of the given class (00_scope.md R11). -/
def CodeMap.inClass (m : CodeMap) (k : WordClass) : Bool := m.all fun e => classOf e.1 == k

/-- `OPMAP` maps into the opcode set (00_scope.md R11). -/
def opmapRange (m : CodeMap) : Bool := m.all fun e => e.2.isOpcode

/-- Each opcode except NOP and SPEAK has at most one pattern in `OPMAP` (00_scope.md R11). -/
def opmapInjective (m : CodeMap) : Bool :=
  decide ((m.map Prod.snd).filter fun i => !(i.isNop || i == .speak)).Nodup

/-- `CHARMAP` maps to character pushes, to NOP or to SPEAK (00_scope.md R11). -/
def charmapRange (m : CodeMap) : Bool :=
  m.all fun e => e.2.token?.isSome || e.2.isNop || e.2 == .speak

/-- `CHARMAP` reaches each of the 27 tokens by exactly one pattern (00_scope.md R11). -/
def charmapTokens (m : CodeMap) : Bool :=
  Token.all.all fun c => (m.filterMap fun e => e.2.token?).count c == 1

/-- A finite `STACK_DEPTH` is at least 2 (00_scope.md R11). -/
def depthOk : Option Nat → Bool
  | none => true
  | some d => decide (2 ≤ d)

/-- The 10 rows of `Hᵗ` are distinct and nonzero (00_scope.md R11). -/
def Matrices.locatesSingles (M : Matrices) : Bool :=
  decide M.ht.toList.Nodup && M.ht.toList.all (fun row => row != 0#4)

/-- The constraints of 00_scope.md R11 on a configuration whose matrices exist; they are asked of the
matrices the configuration builds (log 15). -/
def Config.wf (c : Config) : Bool :=
  (Machine.buildMatrices c).any Matrices.locatesSingles &&
  c.opmap.distinctPatterns && c.opmap.inClass .instruction && opmapRange c.opmap &&
  opmapInjective c.opmap &&
  c.charmap.distinctPatterns && c.charmap.inClass .character && charmapRange c.charmap &&
  charmapTokens c.charmap && depthOk c.stackDepth

end Sys2Proof
end

