-- ==== Sys2Proof/Decode.lean ====
section
/-! DEFINITION. The decoder of 6-bit code words (30_encoding.md R63 to R71), total and rejecting by
name, and the encoder. The tables are the spec's (30_encoding.md R66, R67; log 4). -/

namespace Sys2Proof

/-- Why a sequence of bits is no instruction. -/
inductive DecodeError where
  /-- The word is outside `OPMAP` or `CHARMAP` (30_encoding.md R69). -/
  | unrecognized
  /-- There are not exactly 6 bits (20_memory.md R54; 30_encoding.md R71). -/
  | wrongWidth
deriving DecidableEq, Repr

/-- `OPMAP` for this hardware (30_encoding.md R66). -/
def opmapReference : CodeMap :=
  [(0b010000#6, .stp), (0b010001#6, .dup), (0b010010#6, .del), (0b010011#6, .swp),
   (0b010100#6, .add), (0b010101#6, .sub), (0b010110#6, .mul), (0b010111#6, .div),
   (0b011000#6, .exp), (0b011001#6, .mod), (0b011010#6, .shl), (0b011011#6, .shr),
   (0b011100#6, .hex), (0b011101#6, .ieq), (0b011110#6, .not), (0b011111#6, .xor)]

/-- The letters A to M of `CHARMAP` (30_encoding.md R67). -/
def charmapFirstLetters : CodeMap :=
  [(0b100000#6, .chrA), (0b100001#6, .chrB), (0b100010#6, .chrC), (0b100011#6, .chrD),
   (0b100100#6, .chrE), (0b100101#6, .chrF), (0b100110#6, .chrG), (0b100111#6, .chrH),
   (0b101000#6, .chrI), (0b101001#6, .chrJ), (0b101010#6, .chrK), (0b101011#6, .chrL),
   (0b101100#6, .chrM)]

/-- The letters N to Z of `CHARMAP` (30_encoding.md R67). -/
def charmapLastLetters : CodeMap :=
  [(0b101101#6, .chrN), (0b101110#6, .chrO), (0b101111#6, .chrP), (0b110000#6, .chrQ),
   (0b110001#6, .chrR), (0b110010#6, .chrS), (0b110011#6, .chrT), (0b110100#6, .chrU),
   (0b110101#6, .chrV), (0b110110#6, .chrW), (0b110111#6, .chrX), (0b111000#6, .chrY),
   (0b111001#6, .chrZ)]

/-- SPACE, the four no-operations and SPEAK in `CHARMAP` (30_encoding.md R67). -/
def charmapOthers : CodeMap :=
  [(0b111010#6, .chrSpace), (0b111011#6, .nop0), (0b111100#6, .nop1), (0b111101#6, .nop2),
   (0b111110#6, .nop3), (0b111111#6, .speak)]

/-- `CHARMAP` for this hardware (30_encoding.md R67). -/
def charmapReference : CodeMap := charmapFirstLetters ++ charmapLastLetters ++ charmapOthers

/-- The action of a pattern under a partial map; a pattern outside it is unrecognized
(30_encoding.md R69). -/
def lookupCode (m : CodeMap) (w : CodeWord) : Except DecodeError Instr :=
  match m.find? fun e => e.1 == w with
  | some e => .ok e.2
  | none => .error .unrecognized

/-- The instruction of a code word under given maps: the literal of its low four bits
(30_encoding.md R64), or the action the map of its class gives (30_encoding.md R63, R69). It reads
the word alone (30_encoding.md R71). -/
def decodeWith (opmap charmap : CodeMap) (w : CodeWord) : Except DecodeError Instr :=
  match classOf w with
  | .operand => .ok (.push (w.extractLsb' 0 4))
  | .instruction => lookupCode opmap w
  | .character => lookupCode charmap w

/-- The instruction of a code word of this hardware (30_encoding.md R66, R67). -/
def decode (w : CodeWord) : Except DecodeError Instr := decodeWith opmapReference charmapReference w

/-- Decoding any sequence of bits, element 0 first: only 6 bits are a code word (20_memory.md R54). -/
def decodeBits (bs : List Bool) : Except DecodeError Instr :=
  match ofElems 6 bs with
  | some w => decode w
  | none => .error .wrongWidth

/-- The 6-bit code word held in the low bits of an `nbits`-bit unit whose other bits are 0; a unit with
another bit set holds no code word. DESIGN CHOICE (log 11): a unit of fewer than 6 bits names the code
word whose missing upper bits are 0, and bits of `w` from `nbits` on are not read. This is a way to
write a code word down and no port: a port refuses every other width (20_memory.md R54; `accept`,
`decodeBits`). -/
def codeWordOfUnit (nbits w : Nat) : Option CodeWord :=
  if w % 2 ^ nbits < 64 then some (BitVec.ofNat 6 (w % 2 ^ nbits)) else none

/-- The instruction the decoder reads from a unit numbered as spec/opcode_table.json numbers it: its
bit 0 is bit 0 of `uint_6(w)` (30_encoding.md R75; log 11). -/
def decodeTableWord (nbits w : Nat) : Option Instr :=
  match codeWordOfUnit nbits w with
  | none => none
  | some c => (decode c).toOption

/-- The code word of an instruction of this hardware, written from the tables of 30_encoding.md R64,
R66 and R67. -/
def encode : Instr → CodeWord
  | .push n => 0b00#2 ++ n
  | .stp => 0b010000#6
  | .dup => 0b010001#6
  | .del => 0b010010#6
  | .swp => 0b010011#6
  | .add => 0b010100#6
  | .sub => 0b010101#6
  | .mul => 0b010110#6
  | .div => 0b010111#6
  | .exp => 0b011000#6
  | .mod => 0b011001#6
  | .shl => 0b011010#6
  | .shr => 0b011011#6
  | .hex => 0b011100#6
  | .ieq => 0b011101#6
  | .not => 0b011110#6
  | .xor => 0b011111#6
  | .chrA => 0b100000#6
  | .chrB => 0b100001#6
  | .chrC => 0b100010#6
  | .chrD => 0b100011#6
  | .chrE => 0b100100#6
  | .chrF => 0b100101#6
  | .chrG => 0b100110#6
  | .chrH => 0b100111#6
  | .chrI => 0b101000#6
  | .chrJ => 0b101001#6
  | .chrK => 0b101010#6
  | .chrL => 0b101011#6
  | .chrM => 0b101100#6
  | .chrN => 0b101101#6
  | .chrO => 0b101110#6
  | .chrP => 0b101111#6
  | .chrQ => 0b110000#6
  | .chrR => 0b110001#6
  | .chrS => 0b110010#6
  | .chrT => 0b110011#6
  | .chrU => 0b110100#6
  | .chrV => 0b110101#6
  | .chrW => 0b110110#6
  | .chrX => 0b110111#6
  | .chrY => 0b111000#6
  | .chrZ => 0b111001#6
  | .chrSpace => 0b111010#6
  | .nop0 => 0b111011#6
  | .nop1 => 0b111100#6
  | .nop2 => 0b111101#6
  | .nop3 => 0b111110#6
  | .speak => 0b111111#6

/-- A pattern that a code map gives the instruction, the first listed. -/
def patternOf (m : CodeMap) (i : Instr) : Option CodeWord := (m.find? fun e => e.2 == i).map Prod.fst

/-- The code word of an instruction under given maps: `00` and the literal, or a pattern of `OPMAP`,
or else one of `CHARMAP`; `none` for an instruction that is not well formed under them. -/
def encodeWith (opmap charmap : CodeMap) : Instr → Option CodeWord
  | .push n => some (0b00#2 ++ n)
  | i => (patternOf opmap i).or (patternOf charmap i)

end Sys2Proof
end

