-- ==== Sys2Proof/Machine/Parameters.lean ====
section
/-! DEFINITION. The values this hardware gives the parameters of 00_scope.md R10. -/

namespace Sys2Proof.Machine

/-- `P_ref` (10_state.md R27; log 4). -/
def parityReference : ParityBlock :=
  #v[0b1100#4, 0b1010#4, 0b1001#4, 0b0110#4, 0b0101#4, 0b0011#4]

/-- The configuration of this hardware (00_scope.md R10): no seed and an unbounded stack are the
defaults of the two OPEN parameters (log 5). -/
def referenceConfig : Config :=
  { parityP := parityReference
    seed := none
    opmap := opmapReference
    charmap := charmapReference
    stackDepth := none }

end Sys2Proof.Machine
end

