-- ==== Sys2Proof/Machine/State.lean ====
section
/-! DEFINITION. The state of the machine (10_state.md R29 to R45), the reasons a step can stop, and
the reset state. -/

namespace Sys2Proof.Machine

/-- The run state (10_state.md R31). -/
inductive RunState where
  | idle
  | running
  | stopped
  | error
deriving DecidableEq, Repr

/-- The error causes of 60_exceptions.md R151. -/
inductive ErrCause where
  | none
  | underflow
  | type
  | divZero
  | unrecognized
  | capacity
deriving DecidableEq, Repr

/-- A cell of the operand stack (00_scope.md R19): an 8-bit unsigned integer or a token. -/
inductive Cell where
  | int (u : Byte)
  | chr (c : Token)
deriving DecidableEq, Repr

/-- A text: a finite sequence of characters (10_state.md R43). -/
abbrev Text := List Char

/-- What TOP returns (44_speak_top.md R148). -/
inductive TopView where
  | none
  | bits (v : BitVec 8)
  | char (c : Token)
  | space
deriving DecidableEq, Repr

/-- One transaction the host issues (10_state.md R40, R41, R42, R44). The widths are in the types, so
that no other width can be issued (93_implementation_defined.md I9). -/
inductive Transaction where
  /-- EXEC of one code word (10_state.md R40). -/
  | exec (w : CodeWord)
  /-- TOP (10_state.md R41). -/
  | top
  /-- RESET of the stack machine (10_state.md R42). -/
  | reset
  /-- ENC of a data word (10_state.md R44). -/
  | enc (d : DataWord)
  /-- DEC of a channel word (10_state.md R44). -/
  | dec (r : ChannelWord)
deriving DecidableEq, Repr

/-- One output of the hardware: an announcement (10_state.md R43), or what a transaction returned
(10_state.md R40, R41, R44). -/
inductive Output where
  | announced (t : Text)
  | execReturned (st : RunState)
  | topReturned (v : TopView)
  | encReturned (c : ChannelWord)
  | decReturned (d : DataWord) (o : DecodeOutcome)
deriving DecidableEq, Repr

/-- The reasons a step ends in a fault: none. Nothing stops this hardware; every machine error is the
run state ERROR, a next state (60_exceptions.md R156, R157; log 7), and no constructor is raised by
anyone. Safe: no behaviour of the spec is cut off. -/
inductive Fault
deriving DecidableEq, Repr

/-- The reasons an input is refused. `step` raises none of them: an ill-formed input is refused at the
boundary, before it is a transaction or a configuration (log 6). -/
inductive Refusal where
  /-- Raised by an arm of `exec` whose instruction has no meaning yet; no arm does. Safe. -/
  | notModelled (mnemonic : String)
  /-- Raised by `accept` for an input that has not the port's width (20_memory.md R54;
  93_implementation_defined.md I9). Safe: it is no transaction of this hardware. -/
  | wrongWidth
  /-- Raised by `accept` for a bit the bit source gave as undefined (93_implementation_defined.md I4).
  Safe: the host has to read it again. -/
  | undefinedBit
  /-- Raised by `powerOn` for a seed whose left block is singular (40_codec.md R76). Safe: the spec
  refuses it before any transaction. -/
  | singularSeed
  /-- Raised by `powerOn` for parameters that break the constraints of 00_scope.md R11. Safe: the spec
  says that they must be met. -/
  | invalidParameters
  /-- Raised by `outcomeOfCode` for the code `11` (93_implementation_defined.md I10). Safe: it is never
  produced. -/
  | reservedOutcomeCode
  /-- Raised by `cellOfBits` for a character payload outside the 27 codes
  (93_implementation_defined.md I11). Safe: it is never written. -/
  | reservedCellCode
deriving DecidableEq, Repr

/-- The state of the machine: the tuple `(state, S, ovf, err_cause)` of 10_state.md R29, the codec's
constants, the parameters, and the model's own two fields for the host's side (log 1, log 2). -/
structure State where
  /-- `state`, the run state (10_state.md R31). -/
  run : RunState
  /-- `S`, the operand stack (10_state.md R33), the top cell first (log 10). -/
  stack : List Cell
  /-- `ovf`, the overflow flag (10_state.md R32). -/
  ovf : Bool
  /-- `err_cause`, the diagnostic error cause (10_state.md R37). -/
  errCause : ErrCause
  /-- The codec matrices, constants (10_state.md R28). -/
  codec : Matrices
  /-- The parameters of 00_scope.md R10, which no transaction writes (log 3). -/
  cfg : Config
  /-- The model's own: the transactions the host will issue, the next one first (log 1). -/
  pending : List Transaction
  /-- The model's own: every output so far, the oldest first (log 2). -/
  outputs : List Output
deriving DecidableEq, Repr

/-- The machine right after reset and at power-on, with this hardware's parameters (10_state.md R45;
70_reset_and_hazards.md R176, R177). -/
def State.reset : State :=
  { run := .idle
    stack := []
    ovf := false
    errCause := .none
    codec := matricesOf parityReference
    cfg := referenceConfig
    pending := []
    outputs := [] }

end Sys2Proof.Machine
end

