-- ==== Sys2Proof/Machine/Ops.lean ====
section
/-! DEFINITION. The updates of a state, the stack primitives (20_memory.md R48 to R50), entry to ERROR
(60_exceptions.md R156) and the frame of one EXEC (41_stack_ops.md R91 to R94). -/

namespace Sys2Proof.Machine

/-- `S <- l`. -/
def State.setStack (s : State) (l : List Cell) : State := { s with stack := l }

/-- `ovf <- b` (00_scope.md R18). -/
def State.setOvf (s : State) (b : Bool) : State := { s with ovf := b }

/-- `state <- r` (00_scope.md R18). -/
def State.setRun (s : State) (r : RunState) : State := { s with run := r }

/-- `err_cause <- c`. -/
def State.setErrCause (s : State) (c : ErrCause) : State := { s with errCause := c }

/-- One more output, after those so far (log 2). -/
def State.emit (s : State) (o : Output) : State := { s with outputs := s.outputs ++ [o] }

/-- The transactions the host will issue (log 1). -/
def State.setPending (s : State) (l : List Transaction) : State := { s with pending := l }

/-- What a meaning answers. -/
abbrev Result := Host.Outcome State Fault Refusal

/-- The work of one instruction on the word-start state: it succeeds with a state, or it raises an
error cause. -/
abbrev Act := State → Except ErrCause State

/-- STOPPED and ERROR (00_scope.md R24 "terminal"). -/
def RunState.terminal : RunState → Bool
  | .idle => false
  | .running => false
  | .stopped => true
  | .error => true

/-- The stack is full: `STACK_DEPTH` is finite and `|S| = STACK_DEPTH` (20_memory.md R48; log 16). -/
def stackFull (s : State) : Bool :=
  match s.cfg.stackDepth with
  | none => false
  | some d => s.stack.length == d

/-- `Push(v)` (20_memory.md R48). -/
def pushCell (v : Cell) : Act := fun s =>
  if stackFull s then .error .capacity else .ok (s.setStack (v :: s.stack))

/-- `Pop()`, then the rest of the instruction with the popped cell (20_memory.md R49). -/
def withPop (k : Cell → Act) : Act := fun s =>
  match s.stack with
  | [] => .error .underflow
  | v :: rest => k v (s.setStack rest)

/-- `Top()` (20_memory.md R50). -/
def topCell (s : State) : Option Cell := s.stack.head?

/-- `raise Error(c)` (60_exceptions.md R156): the stack and the flag are those of the word start, the
cause is recorded and the run state is ERROR. Its state is the word start itself (41_stack_ops.md
R94), with nothing announced. -/
def raiseError (start : State) (c : ErrCause) : State := (start.setErrCause c).setRun .error

/-- One EXEC of a recognised or unrecognised word whose work is `act` (41_stack_ops.md R91): nothing
in a terminal state (R92), else the work, and then the run state `after`, or entry to ERROR. -/
def runWord (after : RunState) (act : Act) (s : State) : Result :=
  if s.run.terminal then .next s
  else
    match act s with
    | .ok t => .next (t.setRun after)
    | .error c => .next (raiseError s c)

/-- RESET of the stack machine (70_reset_and_hazards.md R176). There is no other return from STOPPED or
ERROR (60_exceptions.md R158). The codec is unchanged. -/
def resetMachine (s : State) : State :=
  { s with run := .idle, stack := [], ovf := false, errCause := .none }

end Sys2Proof.Machine
end

