-- ==== Sys2Proof/Machine/Operands.lean ====
section
/-! DEFINITION. The operand frames (41_stack_ops.md R95, R96) with the kinds of operand the
instructions ask for (42_arithmetic.md R113; 43_logic_convert.md R132 to R135). In each, `x` is the
top cell and `y` the cell below it. -/

namespace Sys2Proof.Machine

/-- The two-operand frame: `x <- Pop(); y <- Pop()` (41_stack_ops.md R96). -/
def withTwo (k : Cell → Cell → Act) : Act :=
  withPop fun x => withPop fun y => k x y

/-- Two operands that have to be integers, TYPE otherwise (42_arithmetic.md R113). -/
def onInts (k : Byte → Byte → Act) (x y : Cell) : Act := fun s =>
  match x, y with
  | .int a, .int b => k a b s
  | .int _, .chr _ => .error .type
  | .chr _, .int _ => .error .type
  | .chr _, .chr _ => .error .type

/-- The two-operand frame with two integers (41_stack_ops.md R96; 42_arithmetic.md R113). -/
def withTwoInts (k : Byte → Byte → Act) : Act := withTwo (onInts k)

/-- One operand that has to be an integer, TYPE otherwise (43_logic_convert.md R134). -/
def onInt (k : Byte → Act) (x : Cell) : Act := fun s =>
  match x with
  | .int a => k a s
  | .chr _ => .error .type

/-- The one-operand frame with an integer (41_stack_ops.md R95; 43_logic_convert.md R134). -/
def withOneInt (k : Byte → Act) : Act := withPop (onInt k)

/-- The hex value of a cell: a character with a digit value (43_logic_convert.md R131, R132); an
integer has none. -/
def Cell.hexval : Cell → Option Nat
  | .int _ => none
  | .chr c => c.hexval

/-- Two operands that have to be hex-digit characters, TYPE for another kind or format
(43_logic_convert.md R132). -/
def onDigits (k : Nat → Nat → Act) (x y : Cell) : Act := fun s =>
  match x.hexval, y.hexval with
  | some a, some b => k a b s
  | some _, none => .error .type
  | none, some _ => .error .type
  | none, none => .error .type

/-- The two-operand frame with two hex-digit characters (41_stack_ops.md R96; 43_logic_convert.md
R132). -/
def withTwoDigits (k : Nat → Nat → Act) : Act := withTwo (onDigits k)

end Sys2Proof.Machine
end

