-- ==== Sys2Proof/Machine/Flags.lean ====
section
/-! DEFINITION. The result and the overflow flag of the eight arithmetic and shift instructions, from
the true result over the integers (42_arithmetic.md R111, R112). -/

namespace Sys2Proof.Machine

/-- The pushed value, the true result mod 256 (42_arithmetic.md R111). -/
def truncate (t : Int) : Byte := BitVec.ofInt 8 t

/-- `t < 0 or t > 255` (42_arithmetic.md R112). -/
def overflows (t : Int) : Bool := decide (t < 0 ∨ 255 < t)

/-- `ovf <- (t < 0 or t > 255); Push(Int(t mod 256))` (42_arithmetic.md R111, R112). -/
def writeResult (t : Int) : Act := fun s => pushCell (.int (truncate t)) (s.setOvf (overflows t))

end Sys2Proof.Machine
end

