-- ==== Sys2Proof/Machine/Arithmetic.lean ====
section
/-! DEFINITION. The arithmetic and shift instructions (42_arithmetic.md R114 to R121). `y` is the lower
cell and `x` the top cell. -/

namespace Sys2Proof.Machine

/-- An instruction whose true result is defined for all operands (42_arithmetic.md R111, R113). -/
def arith (t : Byte → Byte → Int) (s : State) : Result :=
  runWord .running (withTwoInts fun x y => writeResult (t y x)) s

/-- An instruction that divides by `x`: DIVZERO when it is 0 (42_arithmetic.md R117, R119). -/
def arithDivisor (t : Byte → Byte → Int) (s : State) : Result :=
  runWord .running
    (withTwoInts fun x y s => if x = 0#8 then .error .divZero else writeResult (t y x) s) s

/-- The true result of ADD, `val(y) + val(x)` (42_arithmetic.md R114). -/
def trueSum (y x : Byte) : Int := (y.toNat : Int) + x.toNat

/-- The true result of SUB, `val(y) − val(x)`, which may be negative (42_arithmetic.md R115). -/
def trueDifference (y x : Byte) : Int := (y.toNat : Int) - x.toNat

/-- The true result of MUL, `val(y) · val(x)` (42_arithmetic.md R116). -/
def trueProduct (y x : Byte) : Int := (y.toNat : Int) * x.toNat

/-- The true result of DIV, the floor of `val(y) / val(x)` for `x ≠ 0` (42_arithmetic.md R117). -/
def trueQuotient (y x : Byte) : Int := ((y.toNat / x.toNat : Nat) : Int)

/-- The true result of EXP, `val(y) ^ val(x)` with `0 ^ 0 = 1` (42_arithmetic.md R118). -/
def truePower (y x : Byte) : Int := ((y.toNat ^ x.toNat : Nat) : Int)

/-- The true result of MOD, `val(y) mod val(x)` for `x ≠ 0` (42_arithmetic.md R119). -/
def trueRemainder (y x : Byte) : Int := ((y.toNat % x.toNat : Nat) : Int)

/-- The true result of SHL, `val(y) · 2 ^ val(x)` (42_arithmetic.md R120). -/
def trueShiftLeft (y x : Byte) : Int := ((y.toNat * 2 ^ x.toNat : Nat) : Int)

/-- The true result of SHR, `val(y) div 2 ^ val(x)` (42_arithmetic.md R121). -/
def trueShiftRight (y x : Byte) : Int := ((y.toNat / 2 ^ x.toNat : Nat) : Int)

/-- ADD (42_arithmetic.md R114). -/
def execAdd (s : State) : Result := arith trueSum s

/-- SUB (42_arithmetic.md R115). -/
def execSub (s : State) : Result := arith trueDifference s

/-- MUL (42_arithmetic.md R116). -/
def execMul (s : State) : Result := arith trueProduct s

/-- DIV (42_arithmetic.md R117). -/
def execDiv (s : State) : Result := arithDivisor trueQuotient s

/-- EXP (42_arithmetic.md R118). -/
def execExp (s : State) : Result := arith truePower s

/-- MOD (42_arithmetic.md R119). -/
def execMod (s : State) : Result := arithDivisor trueRemainder s

/-- SHL (42_arithmetic.md R120). -/
def execShl (s : State) : Result := arith trueShiftLeft s

/-- SHR (42_arithmetic.md R121). -/
def execShr (s : State) : Result := arith trueShiftRight s

end Sys2Proof.Machine
end

