-- ==== Sys2Proof/Machine/Logic.lean ====
section
/-! DEFINITION. Conversion, comparison and logic (43_logic_convert.md R131 to R135). None of them
writes the overflow flag. -/

namespace Sys2Proof.Machine

/-- HEX: `y` is the high nibble and `x` the low one (43_logic_convert.md R132). -/
def execHex (s : State) : Result :=
  runWord .running (withTwoDigits fun x y => pushCell (.int (BitVec.ofNat 8 (16 * y + x)))) s

/-- IEQ: 1 for equal integers, else 0 (43_logic_convert.md R133). -/
def execIeq (s : State) : Result :=
  runWord .running (withTwoInts fun x y => pushCell (.int (if y = x then 1#8 else 0#8))) s

/-- NOT: `255 − val(x)`, the 8-bit one's complement (43_logic_convert.md R134). -/
def execNot (s : State) : Result :=
  runWord .running (withOneInt fun x => pushCell (.int (~~~x))) s

/-- XOR: bitwise (43_logic_convert.md R135). -/
def execXor (s : State) : Result :=
  runWord .running (withTwoInts fun x y => pushCell (.int (y ^^^ x))) s

end Sys2Proof.Machine
end

