-- ==== Sys2Proof/Machine/Pushes.lean ====
section
/-! DEFINITION. The push actions (41_stack_ops.md R97, R98): the operand literal and the characters. -/

namespace Sys2Proof.Machine

/-- PUSH n: `Push(Int(n))`, the literal zero-extended (41_stack_ops.md R97; 30_encoding.md R64). -/
def execPush (n : BitVec 4) (s : State) : Result :=
  runWord .running (pushCell (.int (n.zeroExtend 8))) s

/-- CHR c: `Push(Chr(c))` (41_stack_ops.md R98). -/
def pushToken (c : Token) (s : State) : Result := runWord .running (pushCell (.chr c)) s

/-- CHR A (41_stack_ops.md R98). -/
def execChrA (s : State) : Result := pushToken .A s

/-- CHR B (41_stack_ops.md R98). -/
def execChrB (s : State) : Result := pushToken .B s

/-- CHR C (41_stack_ops.md R98). -/
def execChrC (s : State) : Result := pushToken .C s

/-- CHR D (41_stack_ops.md R98). -/
def execChrD (s : State) : Result := pushToken .D s

/-- CHR E (41_stack_ops.md R98). -/
def execChrE (s : State) : Result := pushToken .E s

/-- CHR F (41_stack_ops.md R98). -/
def execChrF (s : State) : Result := pushToken .F s

/-- CHR G (41_stack_ops.md R98). -/
def execChrG (s : State) : Result := pushToken .G s

/-- CHR H (41_stack_ops.md R98). -/
def execChrH (s : State) : Result := pushToken .H s

/-- CHR I (41_stack_ops.md R98). -/
def execChrI (s : State) : Result := pushToken .I s

/-- CHR J (41_stack_ops.md R98). -/
def execChrJ (s : State) : Result := pushToken .J s

/-- CHR K (41_stack_ops.md R98). -/
def execChrK (s : State) : Result := pushToken .K s

/-- CHR L (41_stack_ops.md R98). -/
def execChrL (s : State) : Result := pushToken .L s

/-- CHR M (41_stack_ops.md R98). -/
def execChrM (s : State) : Result := pushToken .M s

/-- CHR N (41_stack_ops.md R98). -/
def execChrN (s : State) : Result := pushToken .N s

/-- CHR O (41_stack_ops.md R98). -/
def execChrO (s : State) : Result := pushToken .O s

/-- CHR P (41_stack_ops.md R98). -/
def execChrP (s : State) : Result := pushToken .P s

/-- CHR Q (41_stack_ops.md R98). -/
def execChrQ (s : State) : Result := pushToken .Q s

/-- CHR R (41_stack_ops.md R98). -/
def execChrR (s : State) : Result := pushToken .R s

/-- CHR S (41_stack_ops.md R98). -/
def execChrS (s : State) : Result := pushToken .S s

/-- CHR T (41_stack_ops.md R98). -/
def execChrT (s : State) : Result := pushToken .T s

/-- CHR U (41_stack_ops.md R98). -/
def execChrU (s : State) : Result := pushToken .U s

/-- CHR V (41_stack_ops.md R98). -/
def execChrV (s : State) : Result := pushToken .V s

/-- CHR W (41_stack_ops.md R98). -/
def execChrW (s : State) : Result := pushToken .W s

/-- CHR X (41_stack_ops.md R98). -/
def execChrX (s : State) : Result := pushToken .X s

/-- CHR Y (41_stack_ops.md R98). -/
def execChrY (s : State) : Result := pushToken .Y s

/-- CHR Z (41_stack_ops.md R98). -/
def execChrZ (s : State) : Result := pushToken .Z s

/-- CHR SPACE (41_stack_ops.md R98). -/
def execChrSpace (s : State) : Result := pushToken .SPACE s

end Sys2Proof.Machine
end

