-- ==== Sys2Proof/Machine/Speak.lean ====
section
/-! DEFINITION. SPEAK with the text form of a cell (44_speak_top.md R144 to R146), and the top view
(R148). -/

namespace Sys2Proof.Machine

/-- The decimal digit of a number below 10 (44_speak_top.md R144). -/
def digitChar (n : Nat) : Char := Char.ofNat (48 + n)

/-- The decimal numeral of an 8-bit integer, without leading zeros (44_speak_top.md R144). -/
def decimal (u : Byte) : Text :=
  if u.toNat < 10 then [digitChar u.toNat]
  else if u.toNat < 100 then [digitChar (u.toNat / 10), digitChar (u.toNat % 10)]
  else [digitChar (u.toNat / 100), digitChar (u.toNat / 10 % 10), digitChar (u.toNat % 10)]

/-- `txt(v)`, the text of one cell (44_speak_top.md R144). -/
def Cell.text : Cell → Text
  | .int u => decimal u
  | .chr c => [c.char]

/-- The loop of 44_speak_top.md R146: pop so many cells, the first popped giving the first text;
`none` when the stack runs out. -/
def collect : Nat → List Cell → Option (Text × List Cell)
  | 0, rest => some ([], rest)
  | _ + 1, [] => none
  | n + 1, v :: rest => (collect n rest).map fun p => (v.text ++ p.1, p.2)

/-- `Announce(t)` (44_speak_top.md R145). -/
def announce (t : Text) (s : State) : State := s.emit (.announced t)

/-- SPEAK (44_speak_top.md R146). -/
def execSpeak (s : State) : Result :=
  runWord .running
    (withOneInt fun n s =>
      match collect n.toNat s.stack with
      | none => .error .underflow
      | some (t, rest) => .ok (announce t (s.setStack rest)))
    s

/-- The view of a cell (44_speak_top.md R148). -/
def Cell.view : Cell → TopView
  | .int u => .bits u
  | .chr .SPACE => .space
  | .chr c => .char c

/-- TOP's answer (44_speak_top.md R148), in every run state (R147). -/
def topView (s : State) : TopView :=
  match topCell s with
  | none => .none
  | some v => v.view

end Sys2Proof.Machine
end

