-- ==== Sys2Proof/Machine/StackOps.lean ====
section
/-! DEFINITION. The no-operations, STP and the stack instructions (41_stack_ops.md R99 to R103). -/

namespace Sys2Proof.Machine

/-- The work of a no-operation: none (41_stack_ops.md R99). -/
def noWork : Act := fun s => .ok s

/-- NOP0 (41_stack_ops.md R99). -/
def execNop0 (s : State) : Result := runWord .running noWork s

/-- NOP1 (41_stack_ops.md R99). -/
def execNop1 (s : State) : Result := runWord .running noWork s

/-- NOP2 (41_stack_ops.md R99). -/
def execNop2 (s : State) : Result := runWord .running noWork s

/-- NOP3 (41_stack_ops.md R99). -/
def execNop3 (s : State) : Result := runWord .running noWork s

/-- STP: the run state becomes STOPPED and nothing else changes (41_stack_ops.md R100). -/
def execStp (s : State) : Result := runWord .stopped noWork s

/-- DUP: `x <- Pop(); Push(x); Push(x)` (41_stack_ops.md R101). -/
def execDup (s : State) : Result :=
  runWord .running (withPop fun x s => (pushCell x s).bind (pushCell x)) s

/-- DEL: `x <- Pop()`, discarded (41_stack_ops.md R102). -/
def execDel (s : State) : Result := runWord .running (withPop fun _ => noWork) s

/-- SWP: `x <- Pop(); y <- Pop(); Push(x); Push(y)` (41_stack_ops.md R103). -/
def execSwp (s : State) : Result :=
  runWord .running (withTwo fun x y s => (pushCell x s).bind (pushCell y)) s

end Sys2Proof.Machine
end

