-- ==== Sys2Proof/Machine/Dispatch.lean ====
section
/-! DEFINITION. EXEC of one instruction (41_stack_ops.md R91): one arm per constructor. -/

namespace Sys2Proof.Machine

def exec (i : Instr) (s : State) : Host.Outcome State Fault Refusal :=
  match i with
  | .push n => Sys2Proof.Machine.execPush n s
  | .stp => Sys2Proof.Machine.execStp s
  | .dup => Sys2Proof.Machine.execDup s
  | .del => Sys2Proof.Machine.execDel s
  | .swp => Sys2Proof.Machine.execSwp s
  | .add => Sys2Proof.Machine.execAdd s
  | .sub => Sys2Proof.Machine.execSub s
  | .mul => Sys2Proof.Machine.execMul s
  | .div => Sys2Proof.Machine.execDiv s
  | .exp => Sys2Proof.Machine.execExp s
  | .mod => Sys2Proof.Machine.execMod s
  | .shl => Sys2Proof.Machine.execShl s
  | .shr => Sys2Proof.Machine.execShr s
  | .hex => Sys2Proof.Machine.execHex s
  | .ieq => Sys2Proof.Machine.execIeq s
  | .not => Sys2Proof.Machine.execNot s
  | .xor => Sys2Proof.Machine.execXor s
  | .chrA => Sys2Proof.Machine.execChrA s
  | .chrB => Sys2Proof.Machine.execChrB s
  | .chrC => Sys2Proof.Machine.execChrC s
  | .chrD => Sys2Proof.Machine.execChrD s
  | .chrE => Sys2Proof.Machine.execChrE s
  | .chrF => Sys2Proof.Machine.execChrF s
  | .chrG => Sys2Proof.Machine.execChrG s
  | .chrH => Sys2Proof.Machine.execChrH s
  | .chrI => Sys2Proof.Machine.execChrI s
  | .chrJ => Sys2Proof.Machine.execChrJ s
  | .chrK => Sys2Proof.Machine.execChrK s
  | .chrL => Sys2Proof.Machine.execChrL s
  | .chrM => Sys2Proof.Machine.execChrM s
  | .chrN => Sys2Proof.Machine.execChrN s
  | .chrO => Sys2Proof.Machine.execChrO s
  | .chrP => Sys2Proof.Machine.execChrP s
  | .chrQ => Sys2Proof.Machine.execChrQ s
  | .chrR => Sys2Proof.Machine.execChrR s
  | .chrS => Sys2Proof.Machine.execChrS s
  | .chrT => Sys2Proof.Machine.execChrT s
  | .chrU => Sys2Proof.Machine.execChrU s
  | .chrV => Sys2Proof.Machine.execChrV s
  | .chrW => Sys2Proof.Machine.execChrW s
  | .chrX => Sys2Proof.Machine.execChrX s
  | .chrY => Sys2Proof.Machine.execChrY s
  | .chrZ => Sys2Proof.Machine.execChrZ s
  | .chrSpace => Sys2Proof.Machine.execChrSpace s
  | .nop0 => Sys2Proof.Machine.execNop0 s
  | .nop1 => Sys2Proof.Machine.execNop1 s
  | .nop2 => Sys2Proof.Machine.execNop2 s
  | .nop3 => Sys2Proof.Machine.execNop3 s
  | .speak => Sys2Proof.Machine.execSpeak s

end Sys2Proof.Machine
end

