-- ==== Sys2Proof/Machine/Transactions.lean ====
section
/-! DEFINITION. The five transactions (10_state.md R40 to R44; 41_stack_ops.md R91; 44_speak_top.md
R147; 70_reset_and_hazards.md R176), and how the host's next one is taken. -/

namespace Sys2Proof.Machine

/-- EXEC of a code word, without its return value (41_stack_ops.md R91): the meaning of the decoded
instruction; an unrecognised word raises UNRECOGNIZED (30_encoding.md R69), in a terminal state it
too has no effect (41_stack_ops.md R92). -/
def execWord (w : CodeWord) (s : State) : Result :=
  match decodeWith s.cfg.opmap s.cfg.charmap w with
  | .ok i => exec i s
  | .error _ => runWord .running (fun _ => .error .unrecognized) s

/-- EXEC returns the run state after the step (10_state.md R40). -/
def returnRunState : Result → Result
  | .next t => .next (t.emit (.execReturned t.run))
  | .fault f => .fault f
  | .refused r => .refused r

/-- One transaction. ENC, DEC and TOP write no state element; they only return a value (20_memory.md
R56). RESET returns nothing (10_state.md R42). -/
def issue : Transaction → State → Result
  | .exec w, s => returnRunState (execWord w s)
  | .top, s => .next (s.emit (.topReturned (topView s)))
  | .reset, s => .next (resetMachine s)
  | .enc d, s => .next (s.emit (.encReturned (enc s.codec d)))
  | .dec r, s => .next (s.emit (.decReturned (dec s.codec r).1 (dec s.codec r).2))

/-- The host's next transaction; without one the machine waits and keeps its state (60_exceptions.md
R166; 70_reset_and_hazards.md R178; log 1). -/
def takeTransaction (s : State) : Result :=
  match s.pending with
  | [] => .next s
  | t :: rest => issue t (s.setPending rest)

/-- The host issues EXEC of the code word in an `nbits`-bit unit before everything else; a unit that
holds no code word is no transaction (20_memory.md R54; log 11). -/
def placeCodeWord (s : State) (nbits w : Nat) : State :=
  match codeWordOfUnit nbits w with
  | some c => s.setPending (.exec c :: s.pending)
  | none => s

end Sys2Proof.Machine
end

