-- ==== Sys2Proof/Machine/Step.lean ====
section
/-! DEFINITION. One step is one transaction (20_memory.md R55, R58). -/

namespace Sys2Proof.Machine

/-- One step: the next transaction of the host, whole (20_memory.md R55). -/
def step (s : State) : Host.Outcome State Fault Refusal := takeTransaction s

/-- The state in which the host's next transaction is EXEC of the given code word (20_memory.md R47;
log 1). -/
def State.withFetchWord (s : State) (nbits w : Nat) : State := placeCodeWord s nbits w

end Sys2Proof.Machine
end

