-- ==== Sys2Proof/Machine/Assembler.lean ====
section
/-! DEFINITION. The assembler syntax of 30_encoding.md R72: one instruction a line, a comment from a
semicolon to the end of the line (log 12). There are no pseudo-instructions (R73). -/

namespace Sys2Proof.Machine

/-- Why a line is no instruction of 30_encoding.md R72. -/
inductive AsmError where
  /-- The first word is no mnemonic, or the line has too many or too few words. -/
  | unknownInstruction
  /-- The operand of PUSH is no decimal numeral from 0 to 15. -/
  | badLiteral
  /-- The operand of CHR is no letter and not SPACE. -/
  | badToken
deriving DecidableEq, Repr

/-- The mnemonics without an operand, `NOP` an alias of `NOP0` (30_encoding.md R72). -/
def plainMnemonics : List (String × Instr) :=
  [("STP", .stp), ("DUP", .dup), ("DEL", .del), ("SWP", .swp), ("ADD", .add), ("SUB", .sub),
   ("MUL", .mul), ("DIV", .div), ("EXP", .exp), ("MOD", .mod), ("SHL", .shl),
   ("SHR", .shr), ("HEX", .hex), ("IEQ", .ieq), ("NOT", .not), ("XOR", .xor),
   ("SPEAK", .speak), ("NOP0", .nop0), ("NOP1", .nop1), ("NOP2", .nop2), ("NOP3", .nop3),
   ("NOP", .nop0)]

/-- The character pushes with the operand each is written with: the letter, or SPACE (30_encoding.md
R72). -/
def chrOperands : List (String × Instr) :=
  [("A", .chrA), ("B", .chrB), ("C", .chrC), ("D", .chrD), ("E", .chrE),
   ("F", .chrF), ("G", .chrG), ("H", .chrH), ("I", .chrI), ("J", .chrJ),
   ("K", .chrK), ("L", .chrL), ("M", .chrM), ("N", .chrN), ("O", .chrO),
   ("P", .chrP), ("Q", .chrQ), ("R", .chrR), ("S", .chrS), ("T", .chrT),
   ("U", .chrU), ("V", .chrV), ("W", .chrW), ("X", .chrX), ("Y", .chrY),
   ("Z", .chrZ), ("SPACE", .chrSpace)]

/-- The source line of an instruction (30_encoding.md R72): `PUSH n`, `CHR c`, or its mnemonic. -/
def sourceOf : Instr → List Char
  | .push n => "PUSH ".toList ++ (if n.toNat < 10 then [] else ['1']) ++ [Char.ofNat (48 + n.toNat % 10)]
  | i =>
    match chrOperands.find? fun e => e.2 == i with
    | some e => "CHR ".toList ++ e.1.toList
    | none =>
      match plainMnemonics.find? fun e => e.2 == i with
      | some e => e.1.toList
      | none => []

/-- The pieces of a text between separators. -/
def splitAt (sep : Char → Bool) : List Char → List (List Char)
  | [] => [[]]
  | c :: cs =>
    if sep c then [] :: splitAt sep cs
    else
      match splitAt sep cs with
      | [] => [[c]]
      | p :: ps => (c :: p) :: ps

/-- Blanks separate the words of a line (log 12). -/
def isBlank (c : Char) : Bool := c == ' ' || c == '\t'

/-- The words of a line, its comment left out (30_encoding.md R72). -/
def wordsOf (line : List Char) : List (List Char) :=
  (splitAt isBlank (line.takeWhile fun c => c != ';')).filter fun p => !p.isEmpty

/-- The value of a decimal numeral; `none` for an empty text or another character. -/
def numeralValue (cs : List Char) : Option Nat :=
  if cs ≠ [] ∧ cs.all Char.isDigit then some (cs.foldl (fun a c => 10 * a + (c.toNat - 48)) 0)
  else none

/-- The entry of a table by its spelling. -/
def spelled (table : List (String × Instr)) (word : List Char) : Option Instr :=
  (table.find? fun e => e.1.toList == word).map Prod.snd

/-- The instruction of one line; `none` for a line without words (30_encoding.md R72). -/
def parseLine (line : List Char) : Except AsmError (Option Instr) :=
  match wordsOf line with
  | [] => .ok none
  | [m] =>
    match spelled plainMnemonics m with
    | some i => .ok (some i)
    | none => .error .unknownInstruction
  | [m, operand] =>
    if m = "PUSH".toList then
      match numeralValue operand with
      | some n => if n ≤ 15 then .ok (some (.push (BitVec.ofNat 4 n))) else .error .badLiteral
      | none => .error .badLiteral
    else if m = "CHR".toList then
      match spelled chrOperands operand with
      | some i => .ok (some i)
      | none => .error .badToken
    else .error .unknownInstruction
  | _ => .error .unknownInstruction

/-- The instructions of the lines, in order, or the first error. -/
def parseLines : List (List Char) → Except AsmError (List Instr)
  | [] => .ok []
  | l :: ls =>
    match parseLine l with
    | .error e => .error e
    | .ok none => parseLines ls
    | .ok (some i) => (parseLines ls).map fun is => i :: is

/-- The instructions of a source text (30_encoding.md R72). -/
def assemble (source : List Char) : Except AsmError (List Instr) :=
  parseLines (splitAt (fun c => c == '\n') source)

/-- The program, as code words, of a source text (30_encoding.md R72, R74). -/
def program (source : List Char) : Except AsmError (List CodeWord) :=
  (assemble source).map fun is => is.map encode

end Sys2Proof.Machine
end

