-- ==== Sys2Proof/Machine/Codes.lean ====
section
/-! DEFINITION. The bit encodings of the state elements and of the port values (10_state.md R31, R36,
R44; 44_speak_top.md R148; 60_exceptions.md R151). -/

namespace Sys2Proof.Machine

/-- The 2-bit code of a run state (10_state.md R31). -/
def RunState.code : RunState → BitVec 2
  | .idle => 0b00#2
  | .running => 0b01#2
  | .stopped => 0b10#2
  | .error => 0b11#2

/-- The 3-bit code of an error cause (60_exceptions.md R151). -/
def ErrCause.code : ErrCause → BitVec 3
  | .none => 0#3
  | .underflow => 1#3
  | .type => 2#3
  | .divZero => 3#3
  | .unrecognized => 4#3
  | .capacity => 5#3

/-- The 2-bit code of a DEC outcome (10_state.md R44). -/
def outcomeCode : DecodeOutcome → BitVec 2
  | .valid => 0b00#2
  | .corrected => 0b01#2
  | .uncorrectable => 0b10#2

/-- The 9 bits of a cell: the kind bit and the payload (10_state.md R36). DESIGN CHOICE (log 20): the kind
bit is the most significant one, element 0, and the payload is the low eight; the spec gives no
places. -/
def Cell.bits : Cell → BitVec 9
  | .int u => 0b0#1 ++ u
  | .chr c => 0b1#1 ++ c.ascii

/-- The 2-bit tag of a top view (44_speak_top.md R148). -/
def TopView.tag : TopView → BitVec 2
  | .none => 0b00#2
  | .bits _ => 0b01#2
  | .char _ => 0b10#2
  | .space => 0b11#2

/-- The 8-bit payload of a top view (44_speak_top.md R148). -/
def TopView.payload : TopView → BitVec 8
  | .none => 0#8
  | .bits v => v
  | .char c => c.ascii
  | .space => 0x20#8

end Sys2Proof.Machine
end

