-- ==== Sys2Proof/Machine/Boundary.lean ====
section
/-! DEFINITION. What the hardware refuses at its boundary (93_implementation_defined.md I4, I9, I10,
I11; 40_codec.md R76; 00_scope.md R11; log 6), and power-on with a configuration. -/

namespace Sys2Proof.Machine

/-- The ports that take a transaction (10_state.md R40, R41, R42, R44). -/
inductive Port where
  | exec
  | top
  | reset
  | enc
  | dec
deriving DecidableEq, Repr

/-- The transaction of a port from its defined input bits, element 0 first (20_memory.md R51, R52,
R54): EXEC and ENC take 6 bits, DEC 11, TOP and RESET none. -/
def transactionOf (p : Port) (bs : List Bool) : Option Transaction :=
  match p with
  | .exec => (ofElems 6 bs).map .exec
  | .enc => (ofElems 6 bs).map .enc
  | .dec => (ofElems 11 bs).map .dec
  | .top => (ofElems 0 bs).map fun _ => .top
  | .reset => (ofElems 0 bs).map fun _ => .reset

/-- The transaction of a port from raw bits, `none` an undefined one (93_implementation_defined.md
I4, I9). -/
def accept (p : Port) (bs : List (Option Bool)) : Except Refusal Transaction :=
  if bs.all Option.isSome then
    match transactionOf p (bs.filterMap id) with
    | some t => .ok t
    | none => .error .wrongWidth
  else .error .undefinedBit

/-- The DEC outcome of a 2-bit code (10_state.md R44); `11` is refused
(93_implementation_defined.md I10). -/
def outcomeOfCode (b : BitVec 2) : Except Refusal DecodeOutcome :=
  if b = 0b00#2 then .ok .valid
  else if b = 0b01#2 then .ok .corrected
  else if b = 0b10#2 then .ok .uncorrectable
  else .error .reservedOutcomeCode

/-- The cell of 9 bits (10_state.md R36), the kind bit first (DESIGN CHOICE, log 20); a character payload
outside the 27 codes is refused (93_implementation_defined.md I11). -/
def cellOfBits (b : BitVec 9) : Except Refusal Cell :=
  if elem b 0 then
    match Token.all.find? fun c => c.ascii == b.extractLsb' 0 8 with
    | some c => .ok (.chr c)
    | none => .error .reservedCellCode
  else .ok (.int (b.extractLsb' 0 8))

/-- Power-on of an instance (70_reset_and_hazards.md R177, R179, R180): the reset state with the
configuration's matrices; a singular seed is refused (40_codec.md R76), and so are parameters that
break 00_scope.md R11. -/
def powerOn (c : Config) : Except Refusal State :=
  match buildMatrices c with
  | none => .error .singularSeed
  | some M => if c.wf then .ok { State.reset with codec := M, cfg := c } else .error .invalidParameters

end Sys2Proof.Machine
end

