-- ==== Sys2Proof/Machine/Driver.lean ====
section
/-! DEFINITION. The host at the boundary of the two units: a program's channel image (30_encoding.md
R74), and a driver that keeps the duties of 60_exceptions.md R169 (log 13). -/

namespace Sys2Proof.Machine

/-- The channel image of a program (30_encoding.md R74). -/
def channelImage (M : Matrices) (prog : List CodeWord) : List ChannelWord := prog.map (enc M)

/-- Cutting a bit sequence into channel words, 11 bits each, index 0 first; an unfinished word at the
end is not forwarded (60_exceptions.md R169). `held` is the unfinished word so far. -/
def assembleFrom (held : List Bool) : List Bool → List ChannelWord
  | [] => []
  | b :: bs =>
    match ofElems 11 (held ++ [b]) with
    | some r => r :: assembleFrom [] bs
    | none => assembleFrom (held ++ [b]) bs

/-- The channel words of what the bit source gave: an undefined bit is read again, so the defined bits
count (60_exceptions.md R169). -/
def assembleWords (source : List (Option Bool)) : List ChannelWord :=
  assembleFrom [] (source.filterMap id)

/-- The data word the host forwards: that of a VALID or CORRECTED outcome (60_exceptions.md R169). -/
def forwarded (M : Matrices) (r : ChannelWord) : Option DataWord :=
  match (dec M r).2 with
  | .valid => some (dec M r).1
  | .corrected => some (dec M r).1
  | .uncorrectable => none

/-- Going on from an answer when it is a next state. -/
def onNext (k : State → Result) : Result → Result
  | .next t => k t
  | .fault f => .fault f
  | .refused r => .refused r

/-- Feeding code words by EXEC until STOPPED or ERROR is returned (60_exceptions.md R169). -/
def feed : List CodeWord → State → Result
  | [], s => .next s
  | w :: ws, s =>
    if s.run.terminal then .next s else onNext (fun t => feed ws t) (issue (.exec w) s)

/-- EXEC of the data word, when there is one to forward (60_exceptions.md R169). -/
def forward (w : Option DataWord) (s : State) : Result :=
  match w with
  | none => .next s
  | some w => issue (.exec w) s

/-- One received channel word (60_exceptions.md R169): DEC of it, and EXEC of its data word once,
nothing for an UNCORRECTABLE one. -/
def driveWord (r : ChannelWord) (s : State) : Result :=
  onNext (forward (forwarded s.codec r)) (issue (.dec r) s)

/-- The driver loop (60_exceptions.md R169): every received channel word in order (an UNCORRECTABLE one
is acquired again and comes later in the list), and no more after STOPPED or ERROR. -/
def drive : List ChannelWord → State → Result
  | [], s => .next s
  | r :: rs, s =>
    if s.run.terminal then .next s else onNext (fun t => drive rs t) (driveWord r s)

end Sys2Proof.Machine
end

