-- ==== Sys2Proof/Safety.lean ====
section
/-! DEFINITION. What the statements speak of: the invariant of the machine, the end of a run and its
observation (60_exceptions.md R172), and the error causes an instruction can raise (R151). -/

namespace Sys2Proof.Machine

/-- The stack holds at most `STACK_DEPTH` cells (10_state.md R33). -/
def StackFits (s : State) : Prop := ∀ d, s.cfg.stackDepth = some d → s.stack.length ≤ d

/-- `err_cause` is NONE exactly until the machine enters ERROR (10_state.md R37). -/
def CauseMatchesRun (s : State) : Prop := s.errCause = .none ↔ s.run ≠ .error

/-- The matrices are those of the configuration (10_state.md R28; 40_codec.md R78). -/
def CodecMatchesConfig (s : State) : Prop := buildMatrices s.cfg = some s.codec

/-- CAPACITY is recorded only with a finite `STACK_DEPTH` (60_exceptions.md R151). -/
def CapacityOnlyFinite (s : State) : Prop := s.errCause = .capacity → s.cfg.stackDepth ≠ none

/-- The invariant of the machine. -/
structure Inv (s : State) : Prop where
  stackFits : StackFits s
  causeMatchesRun : CauseMatchesRun s
  codecMatchesConfig : CodecMatchesConfig s
  capacityOnlyFinite : CapacityOnlyFinite s

/-- The announcements of a record of outputs, in order (60_exceptions.md R172). -/
def announcements : List Output → List Text
  | [] => []
  | .announced t :: os => t :: announcements os
  | .execReturned _ :: os => announcements os
  | .topReturned _ :: os => announcements os
  | .encReturned _ :: os => announcements os
  | .decReturned _ _ :: os => announcements os

/-- The observation of a run (60_exceptions.md R172). -/
structure Observation where
  /-- The final run state. -/
  final : RunState
  /-- The announcements of the run, in order. -/
  texts : List Text
  /-- The TOP view at the end. -/
  top : TopView
deriving DecidableEq, Repr

/-- What is observed of a run that began at `start` (a RESET) and is now at `now` (60_exceptions.md
R172). -/
def observe (start now : State) : Observation :=
  { final := now.run
    texts := announcements (now.outputs.drop start.outputs.length)
    top := topView now }

/-- A run has ended: STOPPED or ERROR was returned (60_exceptions.md R172). -/
def RunEnded (s : State) : Prop := s.run = .stopped ∨ s.run = .error

/-- A run has ended cleanly (60_exceptions.md R172). -/
def EndedCleanly (s : State) : Prop := s.run = .stopped

/-- The stack machine's own state `(state, S, ovf, err_cause)` (10_state.md R29). -/
def smState (s : State) : RunState × List Cell × Bool × ErrCause :=
  (s.run, s.stack, s.ovf, s.errCause)

/-- EXEC has effect: the run state is not terminal (41_stack_ops.md R91, R92). -/
def CanRun (s : State) : Prop := s.run = .idle ∨ s.run = .running

/-- The stack is not at a finite `STACK_DEPTH` (20_memory.md R48). -/
def NotFull (s : State) : Prop := ∀ d, s.cfg.stackDepth = some d → s.stack.length ≠ d

/-- The stack is at a finite `STACK_DEPTH` (20_memory.md R48). -/
def Full (s : State) : Prop := s.cfg.stackDepth = some s.stack.length

/-- The state that entry to ERROR leaves: the word start, with the run state and the cause
(60_exceptions.md R156). -/
def failed (s : State) (c : ErrCause) : State := { s with run := .error, errCause := c }

/-- With fewer than two cells the instruction raises UNDERFLOW (41_stack_ops.md R96). -/
def UnderflowsBelowTwo (i : Instr) : Prop :=
  ∀ s, CanRun s → s.stack.length < 2 → exec i s = .next (failed s .underflow)

/-- With a character among the two top cells the instruction raises TYPE (42_arithmetic.md R113). -/
def TypeErrorOnCharacter (i : Instr) : Prop :=
  ∀ s x y rest, CanRun s → s.stack = x :: y :: rest →
    ((∃ c, x = .chr c) ∨ (∃ c, y = .chr c)) → exec i s = .next (failed s .type)

/-- The state a successful arithmetic or shift instruction leaves: the value on top of what was below
the operands, and the flag (42_arithmetic.md R111, R112). -/
def computed (s : State) (rest : List Cell) (value : Byte) (flag : Bool) : State :=
  { s with stack := .int value :: rest, ovf := flag, run := .running }

/-- The Hamming distance of two channel words: how many elements differ. -/
def distance (a b : ChannelWord) : Nat := ((elems (a ^^^ b)).filter id).length

/-- What a host that keeps its duties receives for a program over a channel that corrupts at most two
bits of a word (60_exceptions.md R169, R170): a word with at most one corrupted bit, or one with two,
after which the word is acquired again. -/
inductive Received (M : Matrices) : List CodeWord → List ChannelWord → Prop where
  | done : Received M [] []
  | good (w : CodeWord) (ws : List CodeWord) (r : ChannelWord) (rs : List ChannelWord) :
      distance (enc M w) r ≤ 1 → Received M ws rs →
      Received M (w :: ws) (r :: rs)
  | again (w : CodeWord) (ws : List CodeWord) (r : ChannelWord) (rs : List ChannelWord) :
      distance (enc M w) r = 2 → Received M (w :: ws) rs →
      Received M (w :: ws) (r :: rs)

/-- The eight instructions that write `ovf` (10_state.md R32). -/
def WritesOvf (i : Instr) : Prop :=
  i = .add ∨ i = .sub ∨ i = .mul ∨ i = .div ∨ i = .exp ∨ i = .mod ∨ i = .shl ∨ i = .shr

/-- The causes an instruction can raise, as the table of 60_exceptions.md R151 lists them. -/
def MayRaise : Instr → List ErrCause
  | .push _ => [.capacity]
  | .dup => [.underflow, .capacity]
  | .del | .swp => [.underflow]
  | .add | .sub | .mul | .exp | .shl | .shr => [.underflow, .type]
  | .div | .mod => [.underflow, .type, .divZero]
  | .hex | .ieq | .not | .xor | .speak => [.underflow, .type]
  | .stp | .nop0 | .nop1 | .nop2 | .nop3 => []
  | .chrA | .chrB | .chrC | .chrD | .chrE | .chrF | .chrG | .chrH | .chrI | .chrJ | .chrK | .chrL
  | .chrM | .chrN | .chrO | .chrP | .chrQ | .chrR | .chrS | .chrT | .chrU | .chrV | .chrW | .chrX
  | .chrY | .chrZ | .chrSpace => [.capacity]

end Sys2Proof.Machine
end

