-- ==== Sys2Proof/Certificates/Slice0/Obligations.lean ====
section
/-! DEFINITION. The statements about the machine, for the provers. Each cites the rule or the section
of spec/ it formalises; what it says in words stands in OBLIGATIONS.json. -/

open Sys2Proof Sys2Proof.Machine

/-- The matrices of every parity block are G = [I|P], H = [Pt|I], and Ht is the transpose of H (stated
by R25). -/
def Obligations.MatricesHaveSystematicForm : Prop :=
  ∀ P : ParityBlock,
    (∀ j : Fin 6, (∀ i : Fin 6, elem (matricesOf P).g[j] i = decide (i = j)) ∧
      ∀ k : Fin 4, elem (matricesOf P).g[j] (6 + k.val) = elem P[j] k) ∧
    (∀ k : Fin 4, (∀ j : Fin 6, elem (matricesOf P).h[k] j = elem P[j] k) ∧
      ∀ m : Fin 4, elem (matricesOf P).h[k] (6 + m.val) = decide (m = k)) ∧
    (∀ (j : Fin 10) (k : Fin 4), elem (matricesOf P).ht[j] k = elem (matricesOf P).h[k] j) ∧
    (∀ j : Fin 6, (matricesOf P).ht[j.val] = P[j]) ∧
    (∀ m k : Fin 4, elem (matricesOf P).ht[6 + m.val] k = decide (k = m))

/-- The elimination yields a systematic G with A * G = SEED, so G is the inverse of A times SEED
(derived from 40_codec.md section 1). -/
def Obligations.EliminationGivesInverseTimesSeed : Prop :=
  ∀ seed G : GeneratorMatrix, systematic seed = some G →
    G = generatorOf (parityBlockOf G) ∧
    ∀ i : Fin 6, rowComb (elems ((seed[i]).extractLsb' 4 6)) G.toList = seed[i]

/-- The elimination fails exactly on a singular left block (derived from 40_codec.md section 1). -/
def Obligations.EliminationRefusesExactlySingularSeeds : Prop :=
  ∀ seed : GeneratorMatrix, systematic seed = none ↔
    ∃ x : BitVec 6, x ≠ 0#6 ∧
      rowComb (elems x) (seed.toList.map fun row => row.extractLsb' 4 6) = 0#6

/-- ENC answers the product with G and the overall parity, and changes nothing else (stated by R79). -/
def Obligations.EncMultipliesByGenerator : Prop :=
  (∀ (s : State) (d : DataWord) (rest : List Transaction), s.pending = .enc d :: rest →
    ∃ c : ChannelWord,
      step s = .next { s with pending := rest, outputs := s.outputs ++ [.encReturned c] } ∧
      (∀ i : Fin 10, elem c i =
        ((List.finRange 6).map fun j : Fin 6 => elem d j && elem s.codec.g[j] i).foldl Bool.xor false) ∧
      elem c 10 = ((List.finRange 10).map fun i : Fin 10 => elem c i).foldl Bool.xor false ∧
      (elems c).foldl Bool.xor false = false) ∧
  (∀ (P : ParityBlock) (d : DataWord),
    (∀ i : Fin 6, elem (enc (matricesOf P) d) i = elem d i) ∧
    ∀ k : Fin 4, elem (enc (matricesOf P) d) (6 + k.val) =
      ((List.finRange 6).map fun j : Fin 6 => elem d j && elem P[j] k).foldl Bool.xor false)

/-- G * Ht = 0: the syndrome of every codeword is zero (derived from 10_state.md section 1). -/
def Obligations.CodewordsHaveZeroSyndrome : Prop :=
  ∀ P : ParityBlock,
    (∀ d : DataWord, syndrome (matricesOf P) (codewordOf (matricesOf P) d) = 0#4) ∧
    ∀ j : Fin 6, syndrome (matricesOf P) (matricesOf P).g[j] = 0#4

/-- DEC computes parity and syndrome and follows the decision table (the first of equal check rows:
log 21) (derived from 40_codec.md section 3). That the first of several equal rows of Ht is
located is the model's choice, log 21; the spec speaks of the one row equal to s, rule R82. -/
def Obligations.DecFollowsDecisionTable : Prop :=
  ∀ (s : State) (r : ChannelWord) (rest : List Transaction), s.pending = .dec r :: rest →
    ∃ (out : DataWord) (o : DecodeOutcome) (d : DataWord) (syn : Syndrome),
      step s = .next { s with pending := rest, outputs := s.outputs ++ [.decReturned out o] } ∧
      (∀ i : Fin 6, elem d i = elem r i) ∧
      (∀ k : Fin 4, elem syn k =
        ((List.finRange 10).map fun j : Fin 10 => elem r j && elem s.codec.ht[j] k).foldl Bool.xor false) ∧
      (((elems r).foldl Bool.xor false = false ∧ syn = 0#4 → out = d ∧ o = .valid) ∧
       ((elems r).foldl Bool.xor false = true ∧ syn = 0#4 → out = d ∧ o = .corrected) ∧
       ((elems r).foldl Bool.xor false = false ∧ syn ≠ 0#4 → out = d ∧ o = .uncorrectable) ∧
       ((elems r).foldl Bool.xor false = true ∧ syn ≠ 0#4 →
         (∀ j : Fin 10, s.codec.ht[j] = syn → (∀ i : Fin 10, i < j → s.codec.ht[i] ≠ syn) →
           o = .corrected ∧
           ∀ i : Fin 6, elem out i = (elem d i ^^ decide (i.val = j.val))) ∧
         ((∀ j : Fin 10, s.codec.ht[j] ≠ syn) → out = d ∧ o = .uncorrectable)))

/-- Decoding an encoded word gives it back as VALID, for every parity block (derived from 40_codec.md
section 4). -/
def Obligations.RoundTripIsValid : Prop :=
  ∀ (P : ParityBlock) (d : DataWord),
    dec (matricesOf P) (enc (matricesOf P) d) = (d, .valid)

/-- Any single flipped bit is corrected, for every parity block whose check rows are distinct and
nonzero (derived from 40_codec.md section 4). -/
def Obligations.SingleErrorIsCorrected : Prop :=
  ∀ P : ParityBlock, (matricesOf P).ht.toList.Nodup → 0#4 ∉ (matricesOf P).ht.toList →
    ∀ (d : DataWord) (j : Fin 11),
      dec (matricesOf P) (flipAt (enc (matricesOf P) d) j) = (d, .corrected)

/-- Any two flipped bits are detected, for every parity block whose check rows are distinct and
nonzero (derived from 40_codec.md section 4). -/
def Obligations.DoubleErrorIsDetected : Prop :=
  ∀ P : ParityBlock, (matricesOf P).ht.toList.Nodup → 0#4 ∉ (matricesOf P).ht.toList →
    ∀ (d : DataWord) (i j : Fin 11), i ≠ j →
      (dec (matricesOf P) (flipAt (flipAt (enc (matricesOf P) d) i) j)).2 = .uncorrectable

/-- The model's driver (log 13) over a channel with at most two errors a word runs the program itself
(derived from 60_exceptions.md section 6; 95_test_vectors.md section 8). The driver, and that a
word acquired again comes later in its list, are the model's choice, log 13: the driver's loop is
outside the spec's scope. -/
def Obligations.NoisyRunEqualsCleanRun : Prop :=
  ∀ P : ParityBlock, (matricesOf P).ht.toList.Nodup → 0#4 ∉ (matricesOf P).ht.toList →
    ∀ (s : State) (prog : List CodeWord) (received : List ChannelWord),
      s.codec = matricesOf P → Received (matricesOf P) prog received →
      ∃ t u : State, drive received s = .next t ∧ feed prog s = .next u ∧
        smState t = smState u ∧ announcements t.outputs = announcements u.outputs

/-- The model's driver (log 13) runs exactly the good data words, once and in order (derived from
60_exceptions.md section 6). The driver loop is the model's choice, log 13: the spec gives the
duties it keeps and leaves the loop out of its scope. -/
def Obligations.DriverForwardsGoodWordsInOrder : Prop :=
  ∀ (s : State) (received : List ChannelWord),
    ∃ t u : State, drive received s = .next t ∧
      feed (received.filterMap (forwarded s.codec)) s = .next u ∧
      smState t = smState u ∧ announcements t.outputs = announcements u.outputs

/-- The 16 instruction patterns decode to their instructions (stated by R66). -/
def Obligations.KnownWordsDecode : Prop :=
  [0b010000#6, 0b010001#6, 0b010010#6, 0b010011#6, 0b010100#6, 0b010101#6, 0b010110#6,
    0b010111#6, 0b011000#6, 0b011001#6, 0b011010#6, 0b011011#6, 0b011100#6, 0b011101#6,
    0b011110#6, 0b011111#6].map decode =
  [.stp, .dup, .del, .swp, .add, .sub, .mul, .div, .exp, .mod, .shl, .shr, .hex, .ieq, .not,
    .xor].map Except.ok

/-- All 64 code words decode, and encoding is the inverse of decoding (derived from 30_encoding.md
section 2). -/
def Obligations.EveryWordIsExactlyOneInstruction : Prop :=
  (∀ w : CodeWord, ∃ i : Instr, decode w = .ok i ∧ encode i = w) ∧
  ∀ i : Instr, decode (encode i) = .ok i

/-- Encoding then decoding gives the instruction back, for every OPMAP and CHARMAP (derived from
30_encoding.md sections 2 and 3; 00_scope.md section 3). -/
def Obligations.EncodeDecodeRoundTripForEveryMap : Prop :=
  ∀ opmap charmap : CodeMap,
    opmap.distinctPatterns = true → opmap.inClass .instruction = true →
    charmap.distinctPatterns = true → charmap.inClass .character = true →
    (∀ i : Instr, i.wf opmap charmap = true → ∃ w, encodeWith opmap charmap i = some w) ∧
    (∀ (i : Instr) (w : CodeWord), encodeWith opmap charmap i = some w →
      decodeWith opmap charmap w = .ok i) ∧
    (∀ (w : CodeWord) (i : Instr), decodeWith opmap charmap w = .ok i →
      i.wf opmap charmap = true)

/-- The first two bits select literal, OPMAP or CHARMAP, the first entry of a pattern counting (log
14) (derived from 30_encoding.md sections 2 and 3). That the first entry counts where a map lists
a pattern twice is the model's choice, log 14; the class is rule R63, the literal R64 and the
unrecognized word R69. -/
def Obligations.ClassBitsSelectTheDecoder : Prop :=
  ∀ (opmap charmap : CodeMap) (w : CodeWord),
    (elem w 0 = false → elem w 1 = false → w.toNat < 16 ∧
      decodeWith opmap charmap w = .ok (.push (BitVec.ofNat 4 w.toNat))) ∧
    (elem w 0 = false → elem w 1 = true →
      decodeWith opmap charmap w =
        ((opmap.lookup w).map Except.ok).getD (.error .unrecognized)) ∧
    (elem w 0 = true →
      decodeWith opmap charmap w =
        ((charmap.lookup w).map Except.ok).getD (.error .unrecognized))

/-- A cell is 9 bits, the kind bit first (log 20) and the payload, and no other payload is a cell
(derived from 10_state.md section 2; 93_implementation_defined.md section 1). That the kind bit is
the most significant of the 9 bits is the model's choice, log 20; the spec gives the kind and the
payload and no places, rule R36. -/
def Obligations.CellBitsRoundTrip : Prop :=
  (∀ v : Cell, cellOfBits v.bits = .ok v) ∧
  (∀ (b : BitVec 9) (v : Cell), cellOfBits b = .ok v → v.bits = b) ∧
  (∀ u : Byte, (Cell.int u).bits = 0b0#1 ++ u) ∧
  (∀ k : Nat, k < 26 → ∃ c, Token.all[k]? = some c ∧
    (Cell.chr c).bits = 0b1#1 ++ BitVec.ofNat 8 (0x41 + k)) ∧
  (Cell.chr .SPACE).bits = 0b1#1 ++ 0x20#8

/-- A port accepts exactly the inputs of its width with every bit defined (derived from 20_memory.md
section 4; 93_implementation_defined.md section 1). -/
def Obligations.PortsAcceptOnlyTheirWidth : Prop :=
  ∀ bs : List (Option Bool),
    (∀ t, accept .exec bs = .ok t ↔ ∃ w : CodeWord, t = .exec w ∧ bs = (elems w).map some) ∧
    (∀ t, accept .enc bs = .ok t ↔ ∃ d : DataWord, t = .enc d ∧ bs = (elems d).map some) ∧
    (∀ t, accept .dec bs = .ok t ↔ ∃ r : ChannelWord, t = .dec r ∧ bs = (elems r).map some) ∧
    (∀ t, accept .top bs = .ok t ↔ t = .top ∧ bs = []) ∧
    (∀ t, accept .reset bs = .ok t ↔ t = .reset ∧ bs = [])

/-- The source line of every instruction assembles to it, and NOP is NOP0 (derived from 30_encoding.md
section 4). How words of a line are separated is the model's choice, log 12; the lines used here
have single blanks. -/
def Obligations.SourceLinesParseBack : Prop :=
  (∀ i : Instr, parseLine (sourceOf i) = .ok (some i)) ∧
  parseLine ['N', 'O', 'P'] = .ok (some .nop0)

/-- A step whose transaction is EXEC of a word runs the decoded instruction and returns the run state
(derived from 41_stack_ops.md section 1). That the next word stands in a queue and outputs in a
record is the model's choice, logs 1 and 2. -/
def Obligations.StepRunsTheDecodedInstruction : Prop :=
  ∀ (s : State) (w : CodeWord) (rest : List Transaction) (i : Instr),
    s.pending = .exec w :: rest → decodeWith s.cfg.opmap s.cfg.charmap w = .ok i →
    i.wf s.cfg.opmap s.cfg.charmap = true →
    step s =
      match exec i { s with pending := rest } with
      | .next t => .next { t with outputs := t.outputs ++ [.execReturned t.run] }
      | .fault f => .fault f
      | .refused r => .refused r

/-- Without a transaction the machine keeps its whole state (derived from 70_reset_and_hazards.md
section 1; 60_exceptions.md section 5). The queue is the model's choice, log 1. -/
def Obligations.WaitsWithoutATransaction : Prop :=
  ∀ s : State, s.pending = [] → step s = .next s

/-- EXEC of a word outside its map raises UNRECOGNIZED (stated by R69). -/
def Obligations.UnrecognizedWordRaisesError : Prop :=
  (∀ (s : State) (w : CodeWord) (rest : List Transaction),
    CanRun s → s.pending = .exec w :: rest →
    ((classOf w = .instruction ∧ ∀ e ∈ s.cfg.opmap, e.1 ≠ w) ∨
     (classOf w = .character ∧ ∀ e ∈ s.cfg.charmap, e.1 ≠ w)) →
    step s = .next { failed s .unrecognized with
      pending := rest, outputs := s.outputs ++ [.execReturned .error] }) ∧
  ∀ w : CodeWord, ∃ i, decodeWith referenceConfig.opmap referenceConfig.charmap w = .ok i

/-- In STOPPED and ERROR an EXEC changes nothing and returns the run state (stated by R92). -/
def Obligations.TerminalStatesAreSticky : Prop :=
  (∀ (i : Instr) (s : State), s.run = .stopped ∨ s.run = .error → exec i s = .next s) ∧
  (∀ (s : State) (w : CodeWord) (rest : List Transaction), s.run = .stopped ∨ s.run = .error →
    s.pending = .exec w :: rest →
    step s = .next { s with pending := rest, outputs := s.outputs ++ [.execReturned s.run] }) ∧
  (∀ s t : State, s.run = .stopped ∨ s.run = .error → step s = .next t →
    t.run = s.run ∨ ∃ rest, s.pending = .reset :: rest)

/-- Whatever the word, an EXEC that fails leaves the word start with ERROR and a cause, and announces
nothing (stated by R156). -/
def Obligations.FailedWordLeavesWordStart : Prop :=
  ∀ (s t : State) (w : CodeWord) (rest : List Transaction),
    CanRun s → s.pending = .exec w :: rest → step s = .next t → t.run = .error →
    ∃ c : ErrCause, c ≠ .none ∧
      t = { failed s c with pending := rest, outputs := s.outputs ++ [.execReturned .error] }

/-- After an EXEC that has effect the run state is ERROR, STOPPED for STP, or RUNNING (derived from
41_stack_ops.md section 1). -/
def Obligations.ExecLeavesRunningStoppedOrError : Prop :=
  (∀ (i : Instr) (s : State), CanRun s → ∃ t, exec i s = .next t ∧
    (t.run = .error ∨ t.run = if i = .stp then .stopped else .running)) ∧
  (∀ (i : Instr) (s : State),
    exec i { s with run := .idle } = exec i { s with run := .running })

/-- No step of any state stops the machine (derived from 60_exceptions.md section 7; 40_codec.md
section 3). -/
def Obligations.StepAlwaysAnswersANextState : Prop :=
  ∀ s : State, ∃ t, step s = .next t

/-- Only a successful arithmetic or shift instruction writes the overflow flag (derived from
10_state.md section 2; 42_arithmetic.md section 1). -/
def Obligations.OverflowFlagWrittenOnlyByArithmetic : Prop :=
  ∀ (i : Instr) (s t : State), exec i s = .next t → (¬ WritesOvf i ∨ t.run = .error) →
    t.ovf = s.ovf

/-- No instruction but SPEAK makes an output, and SPEAK makes at most one announcement (derived from
41_stack_ops.md section 1; 10_state.md section 3). -/
def Obligations.OnlySpeakAnnounces : Prop :=
  ∀ (i : Instr) (s t : State), exec i s = .next t →
    (t.outputs = s.outputs ∨ (i = .speak ∧ ∃ x, t.outputs = s.outputs ++ [.announced x])) ∧
    t.pending = s.pending ∧ t.cfg = s.cfg ∧ t.codec = s.codec

/-- An instruction raises exactly the causes listed for it (derived from 60_exceptions.md section 1). -/
def Obligations.CausesAreExactlyTheListedOnes : Prop :=
  ∀ (i : Instr) (c : ErrCause), c ∈ MayRaise i ↔
    ∃ s : State, CanRun s ∧ StackFits s ∧ exec i s = .next (failed s c)

/-- One EXEC adds at most one cell and removes at most 256 (derived from 20_memory.md section 4). -/
def Obligations.StackMovesAreBounded : Prop :=
  ∀ (i : Instr) (s t : State), exec i s = .next t →
    t.stack.length ≤ s.stack.length + 1 ∧ s.stack.length ≤ t.stack.length + 256

/-- RESET sets every state element to its reset value, and alone leaves STOPPED and ERROR (stated by
R176). -/
def Obligations.ResetSetsEveryElement : Prop :=
  (∀ (s : State) (rest : List Transaction), s.pending = .reset :: rest →
    step s = .next { s with
      run := .idle, stack := [], ovf := false, errCause := .none, pending := rest }) ∧
  (∀ s t : State, s.run = .stopped ∨ s.run = .error → step s = .next t → t.run ≠ s.run →
    ∃ rest, s.pending = .reset :: rest)

/-- Power-on with this hardware's parameters is the reset state, and with any accepted ones has the
reset values (derived from 10_state.md section 4; 70_reset_and_hazards.md section 1). The empty
queue and record of outputs are the model's choice, logs 1 and 2. -/
def Obligations.PowerOnGivesResetState : Prop :=
  powerOn referenceConfig = .ok State.reset ∧
  ∀ (c : Config) (s : State), powerOn c = .ok s →
    s.run = .idle ∧ s.stack = [] ∧ s.ovf = false ∧ s.errCause = .none ∧ s.cfg = c ∧
    buildMatrices c = some s.codec

/-- No transaction changes the codec matrices or the parameters kept beside them (log 3) (derived from
40_codec.md section 1; 10_state.md section 1; 70_reset_and_hazards.md section 1). That the
parameters stand in the state as data which nothing writes is the model's choice, log 3; the
matrices are rules R28, R78 and R176. -/
def Obligations.ConstantsNeverChange : Prop :=
  ∀ s t : State, step s = .next t → t.codec = s.codec ∧ t.cfg = s.cfg

/-- The invariant holds at reset and after every accepted power-on (derived from 10_state.md sections
2 and 4; 40_codec.md section 1). -/
def Obligations.InvariantHoldsAtPowerOn : Prop :=
  Inv State.reset ∧ ∀ (c : Config) (s : State), powerOn c = .ok s → Inv s

/-- Every step keeps the invariant (derived from 10_state.md section 2; 20_memory.md section 2;
40_codec.md section 1). -/
def Obligations.EveryStepKeepsTheInvariant : Prop :=
  ∀ s t : State, Inv s → step s = .next t → Inv t

/-- The diagnostic error cause influences nothing but itself (derived from 10_state.md section 2). -/
def Obligations.ErrorCauseHasNoInfluence : Prop :=
  ∀ (s : State) (c : ErrCause), ∃ t u : State,
    step s = .next t ∧ step { s with errCause := c } = .next u ∧
    { u with errCause := t.errCause } = t

/-- The overflow flag influences nothing but itself (derived from 10_state.md section 2). -/
def Obligations.OverflowFlagHasNoInfluence : Prop :=
  ∀ (s : State) (b : Bool), ∃ t u : State,
    step s = .next t ∧ step { s with ovf := b } = .next u ∧ { u with ovf := t.ovf } = t

/-- TOP returns the view of the top cell in any run state and changes nothing (stated by R148). -/
def Obligations.TopReturnsTheViewAndChangesNothing : Prop :=
  ∀ (s : State) (rest : List Transaction), s.pending = .top :: rest →
    ∃ v : TopView,
      step s = .next { s with pending := rest, outputs := s.outputs ++ [.topReturned v] } ∧
      (s.stack = [] → v = .none ∧ v.tag = 0b00#2 ∧ v.payload = 0#8) ∧
      (∀ u below, s.stack = .int u :: below → ∃ b : BitVec 8, v = .bits b ∧
        v.tag = 0b01#2 ∧ v.payload = b ∧ ∀ i : Fin 8, elem b i = u.getLsbD (7 - i.val)) ∧
      (∀ below, s.stack = .chr .SPACE :: below →
        v = .space ∧ v.tag = 0b11#2 ∧ v.payload = 0x20#8) ∧
      (∀ c below, s.stack = .chr c :: below → c ≠ .SPACE → v = .char c ∧ v.tag = 0b10#2 ∧
        ∃ k : Nat, k < 26 ∧ Token.all[k]? = some c ∧ v.payload = BitVec.ofNat 8 (0x41 + k))

/-- PUSH n pushes the literal, or raises CAPACITY on a full stack (stated by R97). -/
def Obligations.PushRule : Prop :=
  (∀ n : BitVec 4, decode (0b00#2 ++ n) = .ok (.push n)) ∧
  ∀ (n : BitVec 4) (s : State), CanRun s →
    (NotFull s → exec (.push n) s =
      .next { s with stack := .int (BitVec.ofNat 8 n.toNat) :: s.stack, run := .running }) ∧
    (Full s → exec (.push n) s = .next (failed s .capacity))

/-- Each of the 27 CHR instructions pushes its token, or raises CAPACITY on a full stack (stated by
R98). -/
def Obligations.CharacterPushRule : Prop :=
  ∀ (w : CodeWord) (i : Instr) (c : Token),
    (w, i, c) ∈ ([(0b100000#6, .chrA, .A), (0b100001#6, .chrB, .B), (0b100010#6, .chrC, .C),
     (0b100011#6, .chrD, .D), (0b100100#6, .chrE, .E), (0b100101#6, .chrF, .F),
     (0b100110#6, .chrG, .G), (0b100111#6, .chrH, .H), (0b101000#6, .chrI, .I),
     (0b101001#6, .chrJ, .J), (0b101010#6, .chrK, .K), (0b101011#6, .chrL, .L),
     (0b101100#6, .chrM, .M), (0b101101#6, .chrN, .N), (0b101110#6, .chrO, .O),
     (0b101111#6, .chrP, .P), (0b110000#6, .chrQ, .Q), (0b110001#6, .chrR, .R),
     (0b110010#6, .chrS, .S), (0b110011#6, .chrT, .T), (0b110100#6, .chrU, .U),
     (0b110101#6, .chrV, .V), (0b110110#6, .chrW, .W), (0b110111#6, .chrX, .X),
     (0b111000#6, .chrY, .Y), (0b111001#6, .chrZ, .Z), (0b111010#6, .chrSpace, .SPACE)] :
      List (CodeWord × Instr × Token)) →
    decode w = .ok i ∧
    ∀ s : State, CanRun s →
      (NotFull s → exec i s = .next { s with stack := .chr c :: s.stack, run := .running }) ∧
      (Full s → exec i s = .next (failed s .capacity))

/-- NOP0 to NOP3 only set RUNNING (stated by R99). -/
def Obligations.NopRule : Prop :=
  decode 0b111011#6 = .ok .nop0 ∧ decode 0b111100#6 = .ok .nop1 ∧
  decode 0b111101#6 = .ok .nop2 ∧ decode 0b111110#6 = .ok .nop3 ∧
  ∀ s : State, CanRun s →
    exec .nop0 s = .next { s with run := .running } ∧
    exec .nop1 s = .next { s with run := .running } ∧
    exec .nop2 s = .next { s with run := .running } ∧
    exec .nop3 s = .next { s with run := .running }

/-- STP sets STOPPED and changes nothing else, and later words have no effect (stated by R100). -/
def Obligations.StopRule : Prop :=
  decode 0b010000#6 = .ok .stp ∧
  ∀ s : State, CanRun s → exec .stp s = .next { s with run := .stopped } ∧
    ∀ i : Instr, exec i { s with run := .stopped } = .next { s with run := .stopped }

/-- DUP duplicates the top cell, or raises UNDERFLOW or CAPACITY (stated by R101). -/
def Obligations.DupRule : Prop :=
  decode 0b010001#6 = .ok .dup ∧
  ∀ s : State, CanRun s →
    (s.stack = [] → exec .dup s = .next (failed s .underflow)) ∧
    ∀ x rest, s.stack = x :: rest →
      (StackFits s → NotFull s →
        exec .dup s = .next { s with stack := x :: x :: rest, run := .running }) ∧
      (Full s → exec .dup s = .next (failed s .capacity))

/-- DEL discards the top cell, or raises UNDERFLOW (stated by R102). -/
def Obligations.DelRule : Prop :=
  decode 0b010010#6 = .ok .del ∧
  ∀ s : State, CanRun s →
    (s.stack = [] → exec .del s = .next (failed s .underflow)) ∧
    ∀ x rest, s.stack = x :: rest →
      exec .del s = .next { s with stack := rest, run := .running }

/-- SWP exchanges the two top cells of any kind, or raises UNDERFLOW, never CAPACITY (stated by R103). -/
def Obligations.SwpRule : Prop :=
  decode 0b010011#6 = .ok .swp ∧ UnderflowsBelowTwo .swp ∧
  ∀ s x y rest, CanRun s → StackFits s → s.stack = x :: y :: rest →
    exec .swp s = .next { s with stack := y :: x :: rest, run := .running }

/-- ADD pushes the sum mod 256, writes the flag, or raises UNDERFLOW or TYPE (stated by R114). -/
def Obligations.AddRule : Prop :=
  decode 0b010100#6 = .ok .add ∧ UnderflowsBelowTwo .add ∧ TypeErrorOnCharacter .add ∧
  ∀ s (x y : Byte) rest, CanRun s → StackFits s → s.stack = .int x :: .int y :: rest →
    exec .add s = .next (computed s rest
      (BitVec.ofNat 8 ((y.toNat + x.toNat) % 256))
      (decide (255 < y.toNat + x.toNat)))

/-- SUB pushes the difference y - x mod 256, writes the flag, or raises UNDERFLOW or TYPE (stated by
R115). -/
def Obligations.SubRule : Prop :=
  decode 0b010101#6 = .ok .sub ∧ UnderflowsBelowTwo .sub ∧ TypeErrorOnCharacter .sub ∧
  ∀ s (x y : Byte) rest, CanRun s → StackFits s → s.stack = .int x :: .int y :: rest →
    exec .sub s = .next (computed s rest
      (BitVec.ofInt 8 (((y.toNat : Int) - x.toNat) % 256))
      (decide (y.toNat < x.toNat)))

/-- MUL pushes the product mod 256, writes the flag, or raises UNDERFLOW or TYPE (stated by R116). -/
def Obligations.MulRule : Prop :=
  decode 0b010110#6 = .ok .mul ∧ UnderflowsBelowTwo .mul ∧ TypeErrorOnCharacter .mul ∧
  ∀ s (x y : Byte) rest, CanRun s → StackFits s → s.stack = .int x :: .int y :: rest →
    exec .mul s = .next (computed s rest
      (BitVec.ofNat 8 (y.toNat * x.toNat % 256))
      (decide (255 < y.toNat * x.toNat)))

/-- EXP pushes the power y^x mod 256 (0^0 = 1), writes the flag, or raises UNDERFLOW or TYPE (stated
by R118). -/
def Obligations.ExpRule : Prop :=
  decode 0b011000#6 = .ok .exp ∧ UnderflowsBelowTwo .exp ∧ TypeErrorOnCharacter .exp ∧
  ∀ s (x y : Byte) rest, CanRun s → StackFits s → s.stack = .int x :: .int y :: rest →
    exec .exp s = .next (computed s rest
      (BitVec.ofNat 8 (y.toNat ^ x.toNat % 256))
      (decide (255 < y.toNat ^ x.toNat)))

/-- SHL pushes y shifted left by x, mod 256, writes the flag, or raises UNDERFLOW or TYPE (stated by
R120). -/
def Obligations.ShlRule : Prop :=
  decode 0b011010#6 = .ok .shl ∧ UnderflowsBelowTwo .shl ∧ TypeErrorOnCharacter .shl ∧
  ∀ s (x y : Byte) rest, CanRun s → StackFits s → s.stack = .int x :: .int y :: rest →
    exec .shl s = .next (computed s rest
      (BitVec.ofNat 8 (y.toNat * 2 ^ x.toNat % 256))
      (decide (255 < y.toNat * 2 ^ x.toNat)))

/-- SHR pushes y shifted right by x with zero fill, writes the flag, or raises UNDERFLOW or TYPE
(stated by R121). -/
def Obligations.ShrRule : Prop :=
  decode 0b011011#6 = .ok .shr ∧ UnderflowsBelowTwo .shr ∧ TypeErrorOnCharacter .shr ∧
  ∀ s (x y : Byte) rest, CanRun s → StackFits s → s.stack = .int x :: .int y :: rest →
    exec .shr s = .next (computed s rest
      (BitVec.ofNat 8 (y.toNat / 2 ^ x.toNat))
      (false))

/-- DIV pushes the floor of y / x and clears the flag, or raises UNDERFLOW, TYPE or DIVZERO (stated by
R117). -/
def Obligations.DivRule : Prop :=
  decode 0b010111#6 = .ok .div ∧ UnderflowsBelowTwo .div ∧ TypeErrorOnCharacter .div ∧
  ∀ s (x y : Byte) rest, CanRun s → s.stack = .int x :: .int y :: rest →
    (x = 0#8 → exec .div s = .next (failed s .divZero)) ∧
    (x ≠ 0#8 → StackFits s → exec .div s = .next (computed s rest
      (BitVec.ofNat 8 (y.toNat / x.toNat)) false))

/-- MOD pushes y mod x and clears the flag, or raises UNDERFLOW, TYPE or DIVZERO (stated by R119). -/
def Obligations.ModRule : Prop :=
  decode 0b011001#6 = .ok .mod ∧ UnderflowsBelowTwo .mod ∧ TypeErrorOnCharacter .mod ∧
  ∀ s (x y : Byte) rest, CanRun s → s.stack = .int x :: .int y :: rest →
    (x = 0#8 → exec .mod s = .next (failed s .divZero)) ∧
    (x ≠ 0#8 → StackFits s → exec .mod s = .next (computed s rest
      (BitVec.ofNat 8 (y.toNat % x.toNat)) false))

/-- HEX combines two hex-digit characters, or raises UNDERFLOW or TYPE (stated by R132). -/
def Obligations.HexRule : Prop :=
  decode 0b011100#6 = .ok .hex ∧ UnderflowsBelowTwo .hex ∧
  (∀ (s : State) (x y : Token) (a b : Nat) (rest : List Cell), CanRun s → StackFits s →
    s.stack = .chr x :: .chr y :: rest →
    (x, a) ∈ [(Token.A, 10), (.B, 11), (.C, 12), (.D, 13), (.E, 14), (.F, 15)] →
    (y, b) ∈ [(Token.A, 10), (.B, 11), (.C, 12), (.D, 13), (.E, 14), (.F, 15)] →
    exec .hex s = .next { s with stack := .int (BitVec.ofNat 8 (16 * b + a)) :: rest,
                                 run := .running }) ∧
  (∀ (s : State) (x y : Cell) (rest : List Cell), CanRun s → s.stack = x :: y :: rest →
    (x ∉ [Token.A, .B, .C, .D, .E, .F].map Cell.chr ∨
     y ∉ [Token.A, .B, .C, .D, .E, .F].map Cell.chr) →
    exec .hex s = .next (failed s .type))

/-- IEQ pushes 1 for equal integers and 0 otherwise, or raises UNDERFLOW or TYPE (stated by R133). -/
def Obligations.IeqRule : Prop :=
  decode 0b011101#6 = .ok .ieq ∧ UnderflowsBelowTwo .ieq ∧ TypeErrorOnCharacter .ieq ∧
  ∀ s (x y : Byte) rest, CanRun s → StackFits s → s.stack = .int x :: .int y :: rest →
    (x = y → exec .ieq s = .next { s with stack := .int 1#8 :: rest, run := .running }) ∧
    (x ≠ y → exec .ieq s = .next { s with stack := .int 0#8 :: rest, run := .running })

/-- NOT pushes 255 minus the integer, or raises UNDERFLOW or TYPE (stated by R134). -/
def Obligations.NotRule : Prop :=
  decode 0b011110#6 = .ok .not ∧
  ∀ s : State, CanRun s →
    (s.stack = [] → exec .not s = .next (failed s .underflow)) ∧
    (∀ c rest, s.stack = .chr c :: rest → exec .not s = .next (failed s .type)) ∧
    ∀ (x : Byte) rest, StackFits s → s.stack = .int x :: rest →
      exec .not s = .next { s with stack := .int (BitVec.ofNat 8 (255 - x.toNat)) :: rest,
                                   run := .running }

/-- XOR pushes the bitwise exclusive or, or raises UNDERFLOW or TYPE (stated by R135). -/
def Obligations.XorRule : Prop :=
  decode 0b011111#6 = .ok .xor ∧ UnderflowsBelowTwo .xor ∧ TypeErrorOnCharacter .xor ∧
  ∀ s (x y : Byte) rest, CanRun s → StackFits s → s.stack = .int x :: .int y :: rest →
    ∃ z : Byte, (∀ i : Fin 8, z.getLsbD i = (y.getLsbD i ^^ x.getLsbD i)) ∧
      exec .xor s = .next { s with stack := .int z :: rest, run := .running }

/-- SPEAK announces the text of the counted cells, or raises UNDERFLOW or TYPE with nothing announced
(stated by R146). -/
def Obligations.SpeakRule : Prop :=
  decode 0b111111#6 = .ok .speak ∧
  ∀ s : State, CanRun s →
    (s.stack = [] → exec .speak s = .next (failed s .underflow)) ∧
    (∀ c rest, s.stack = .chr c :: rest → exec .speak s = .next (failed s .type)) ∧
    (∀ (n : Byte) rest, s.stack = .int n :: rest → rest.length < n.toNat →
      exec .speak s = .next (failed s .underflow)) ∧
    (∀ (n : Byte) vs below, s.stack = .int n :: (vs ++ below) → vs.length = n.toNat →
      exec .speak s = .next { s with
        stack := below, run := .running,
        outputs := s.outputs ++ [.announced (vs.flatMap Cell.text)] })

/-- The text of a cell is the decimal numeral, the letter, or one space (stated by R144). -/
def Obligations.TextFormRule : Prop :=
  (∀ u : Byte, (Cell.int u).text = Nat.toDigits 10 u.toNat) ∧
  (∀ k : Nat, k < 26 → ∃ c, Token.all[k]? = some c ∧ (Cell.chr c).text = [Char.ofNat (65 + k)]) ∧
  (Cell.chr .SPACE).text = [' ']
end

