-- ==== Sys2Proof/Laws/Codec.lean ====
section
/-! SUPPORT. The codec's operations are linear over GF(2). -/

namespace Sys2Proof

@[simp] theorem length_elems {n : Nat} (v : BitVec n) : (elems v).length = n := by
  simp [elems]

/-- The elements of a XOR. -/
theorem elems_xor {n : Nat} (a b : BitVec n) :
    elems (a ^^^ b) = List.zipWith Bool.xor (elems a) (elems b) := by
  unfold elems
  rw [List.zipWith_map]
  simp only [List.zipWith_self]
  exact List.map_congr_left fun i _ => by simp [elem]

/-- A zero vector selects no row. -/
theorem rowComb_zero {m : Nat} (n : Nat) (rows : List (BitVec m)) :
    rowComb (List.replicate n false) rows = 0#m := by
  induction n generalizing rows with
  | zero => rfl
  | succ n ih =>
    cases rows with
    | nil => rfl
    | cons r rs => simp [List.replicate_succ, rowComb, ih]

/-- A product is linear in the vector. -/
theorem rowComb_xor {m : Nat} (as bs : List Bool) (rows : List (BitVec m))
    (h : as.length = bs.length) :
    rowComb (List.zipWith Bool.xor as bs) rows = rowComb as rows ^^^ rowComb bs rows := by
  induction as generalizing bs rows with
  | nil =>
    cases bs with
    | nil => simp [rowComb]
    | cons b bs => cases h
  | cons a as ih =>
    cases bs with
    | nil => cases h
    | cons b bs =>
      cases rows with
      | nil => simp [rowComb]
      | cons r rs =>
        have hi := ih bs rs (by simpa using h)
        cases a <;> cases b <;> simp [rowComb, hi] <;> ac_nf <;> simp

/-- A product with a product is the product with the product of the matrices. -/
theorem rowComb_rowComb {m n : Nat} (cs : List Bool) (rows : List (BitVec m))
    (hs : List (BitVec n)) :
    rowComb (elems (rowComb cs rows)) hs = rowComb cs (rows.map fun r => rowComb (elems r) hs) := by
  have zero : rowComb (elems (0#m)) hs = 0#n := by
    have : elems (0#m) = List.replicate m false := by
      simp [elems, elem, List.eq_replicate_iff]
    rw [this, rowComb_zero]
  induction cs generalizing rows with
  | nil => simp [rowComb, zero]
  | cons c cs ih =>
    cases rows with
    | nil => simp [rowComb, zero]
    | cons r rs =>
      simp only [rowComb, List.map_cons]
      rw [elems_xor, rowComb_xor _ _ _ (by simp), ih]
      cases c <;> simp [zero]

/-- The syndrome is linear. -/
theorem Machine.syndrome_xor (M : Matrices) (a b : BlockWord) :
    Machine.syndrome M (a ^^^ b) = Machine.syndrome M a ^^^ Machine.syndrome M b := by
  unfold Machine.syndrome
  rw [elems_xor, rowComb_xor _ _ _ (by simp)]

end Sys2Proof
end

