-- ==== Sys2Proof/Laws/State.lean ====
section
/-! SUPPORT. The fields of a state after each update. -/

namespace Sys2Proof.Machine

@[simp] theorem State.setStack_run (s : State) (l : List Cell) : (s.setStack l).run = s.run := rfl
@[simp] theorem State.setStack_stack (s : State) (l : List Cell) : (s.setStack l).stack = l := rfl
@[simp] theorem State.setStack_ovf (s : State) (l : List Cell) : (s.setStack l).ovf = s.ovf := rfl
@[simp] theorem State.setStack_errCause (s : State) (l : List Cell) : (s.setStack l).errCause = s.errCause := rfl
@[simp] theorem State.setStack_codec (s : State) (l : List Cell) : (s.setStack l).codec = s.codec := rfl
@[simp] theorem State.setStack_cfg (s : State) (l : List Cell) : (s.setStack l).cfg = s.cfg := rfl
@[simp] theorem State.setStack_pending (s : State) (l : List Cell) : (s.setStack l).pending = s.pending := rfl
@[simp] theorem State.setStack_outputs (s : State) (l : List Cell) : (s.setStack l).outputs = s.outputs := rfl

@[simp] theorem State.setOvf_run (s : State) (b : Bool) : (s.setOvf b).run = s.run := rfl
@[simp] theorem State.setOvf_stack (s : State) (b : Bool) : (s.setOvf b).stack = s.stack := rfl
@[simp] theorem State.setOvf_ovf (s : State) (b : Bool) : (s.setOvf b).ovf = b := rfl
@[simp] theorem State.setOvf_errCause (s : State) (b : Bool) : (s.setOvf b).errCause = s.errCause := rfl
@[simp] theorem State.setOvf_codec (s : State) (b : Bool) : (s.setOvf b).codec = s.codec := rfl
@[simp] theorem State.setOvf_cfg (s : State) (b : Bool) : (s.setOvf b).cfg = s.cfg := rfl
@[simp] theorem State.setOvf_pending (s : State) (b : Bool) : (s.setOvf b).pending = s.pending := rfl
@[simp] theorem State.setOvf_outputs (s : State) (b : Bool) : (s.setOvf b).outputs = s.outputs := rfl

@[simp] theorem State.setRun_run (s : State) (r : RunState) : (s.setRun r).run = r := rfl
@[simp] theorem State.setRun_stack (s : State) (r : RunState) : (s.setRun r).stack = s.stack := rfl
@[simp] theorem State.setRun_ovf (s : State) (r : RunState) : (s.setRun r).ovf = s.ovf := rfl
@[simp] theorem State.setRun_errCause (s : State) (r : RunState) : (s.setRun r).errCause = s.errCause := rfl
@[simp] theorem State.setRun_codec (s : State) (r : RunState) : (s.setRun r).codec = s.codec := rfl
@[simp] theorem State.setRun_cfg (s : State) (r : RunState) : (s.setRun r).cfg = s.cfg := rfl
@[simp] theorem State.setRun_pending (s : State) (r : RunState) : (s.setRun r).pending = s.pending := rfl
@[simp] theorem State.setRun_outputs (s : State) (r : RunState) : (s.setRun r).outputs = s.outputs := rfl

@[simp] theorem State.setErrCause_run (s : State) (c : ErrCause) : (s.setErrCause c).run = s.run := rfl
@[simp] theorem State.setErrCause_stack (s : State) (c : ErrCause) : (s.setErrCause c).stack = s.stack := rfl
@[simp] theorem State.setErrCause_ovf (s : State) (c : ErrCause) : (s.setErrCause c).ovf = s.ovf := rfl
@[simp] theorem State.setErrCause_errCause (s : State) (c : ErrCause) : (s.setErrCause c).errCause = c := rfl
@[simp] theorem State.setErrCause_codec (s : State) (c : ErrCause) : (s.setErrCause c).codec = s.codec := rfl
@[simp] theorem State.setErrCause_cfg (s : State) (c : ErrCause) : (s.setErrCause c).cfg = s.cfg := rfl
@[simp] theorem State.setErrCause_pending (s : State) (c : ErrCause) : (s.setErrCause c).pending = s.pending := rfl
@[simp] theorem State.setErrCause_outputs (s : State) (c : ErrCause) : (s.setErrCause c).outputs = s.outputs := rfl

@[simp] theorem State.setPending_run (s : State) (p : List Transaction) : (s.setPending p).run = s.run := rfl
@[simp] theorem State.setPending_stack (s : State) (p : List Transaction) : (s.setPending p).stack = s.stack := rfl
@[simp] theorem State.setPending_ovf (s : State) (p : List Transaction) : (s.setPending p).ovf = s.ovf := rfl
@[simp] theorem State.setPending_errCause (s : State) (p : List Transaction) : (s.setPending p).errCause = s.errCause := rfl
@[simp] theorem State.setPending_codec (s : State) (p : List Transaction) : (s.setPending p).codec = s.codec := rfl
@[simp] theorem State.setPending_cfg (s : State) (p : List Transaction) : (s.setPending p).cfg = s.cfg := rfl
@[simp] theorem State.setPending_pending (s : State) (p : List Transaction) : (s.setPending p).pending = p := rfl
@[simp] theorem State.setPending_outputs (s : State) (p : List Transaction) : (s.setPending p).outputs = s.outputs := rfl

@[simp] theorem State.emit_run (s : State) (o : Output) : (s.emit o).run = s.run := rfl
@[simp] theorem State.emit_stack (s : State) (o : Output) : (s.emit o).stack = s.stack := rfl
@[simp] theorem State.emit_ovf (s : State) (o : Output) : (s.emit o).ovf = s.ovf := rfl
@[simp] theorem State.emit_errCause (s : State) (o : Output) : (s.emit o).errCause = s.errCause := rfl
@[simp] theorem State.emit_codec (s : State) (o : Output) : (s.emit o).codec = s.codec := rfl
@[simp] theorem State.emit_cfg (s : State) (o : Output) : (s.emit o).cfg = s.cfg := rfl
@[simp] theorem State.emit_pending (s : State) (o : Output) : (s.emit o).pending = s.pending := rfl
@[simp] theorem State.emit_outputs (s : State) (o : Output) : (s.emit o).outputs = s.outputs ++ [o] := rfl

@[simp] theorem raiseError_run (s : State) (c : ErrCause) : (raiseError s c).run = .error := rfl
@[simp] theorem raiseError_stack (s : State) (c : ErrCause) : (raiseError s c).stack = s.stack := rfl
@[simp] theorem raiseError_ovf (s : State) (c : ErrCause) : (raiseError s c).ovf = s.ovf := rfl
@[simp] theorem raiseError_errCause (s : State) (c : ErrCause) : (raiseError s c).errCause = c := rfl
@[simp] theorem raiseError_codec (s : State) (c : ErrCause) : (raiseError s c).codec = s.codec := rfl
@[simp] theorem raiseError_cfg (s : State) (c : ErrCause) : (raiseError s c).cfg = s.cfg := rfl
@[simp] theorem raiseError_pending (s : State) (c : ErrCause) : (raiseError s c).pending = s.pending := rfl
@[simp] theorem raiseError_outputs (s : State) (c : ErrCause) : (raiseError s c).outputs = s.outputs := rfl

@[simp] theorem resetMachine_run (s : State) : (resetMachine s).run = .idle := rfl
@[simp] theorem resetMachine_stack (s : State) : (resetMachine s).stack = [] := rfl
@[simp] theorem resetMachine_ovf (s : State) : (resetMachine s).ovf = false := rfl
@[simp] theorem resetMachine_errCause (s : State) : (resetMachine s).errCause = .none := rfl
@[simp] theorem resetMachine_codec (s : State) : (resetMachine s).codec = s.codec := rfl
@[simp] theorem resetMachine_cfg (s : State) : (resetMachine s).cfg = s.cfg := rfl
@[simp] theorem resetMachine_pending (s : State) : (resetMachine s).pending = s.pending := rfl
@[simp] theorem resetMachine_outputs (s : State) : (resetMachine s).outputs = s.outputs := rfl

end Sys2Proof.Machine
end

