-- ==== Sys2Proof/Laws/Ops.lean ====
section
/-! SUPPORT. What each shared operation can do, said once. -/

namespace Sys2Proof.Machine

/-- In a terminal state an EXEC does nothing. -/
theorem runWord_of_terminal {after : RunState} {act : Act} {s : State}
    (h : s.run.terminal = true) : runWord after act s = .next s := by
  simp [runWord, h]

/-- The work of an EXEC succeeds. -/
theorem runWord_of_ok {after : RunState} {act : Act} {s t : State}
    (h : s.run.terminal = false) (ha : act s = .ok t) :
    runWord after act s = .next (t.setRun after) := by
  simp [runWord, h, ha]

/-- The work of an EXEC raises a cause. -/
theorem runWord_of_error {after : RunState} {act : Act} {s : State} {c : ErrCause}
    (h : s.run.terminal = false) (ha : act s = .error c) :
    runWord after act s = .next (raiseError s c) := by
  simp [runWord, h, ha]

/-- Everything an EXEC can do. -/
theorem runWord_cases (after : RunState) (act : Act) (s : State) :
    (s.run.terminal = true ∧ runWord after act s = .next s) ∨
    (s.run.terminal = false ∧ ∃ t, act s = .ok t ∧ runWord after act s = .next (t.setRun after)) ∨
    (s.run.terminal = false ∧ ∃ c, act s = .error c ∧ runWord after act s = .next (raiseError s c)) := by
  cases hr : s.run.terminal with
  | true => exact .inl ⟨rfl, runWord_of_terminal hr⟩
  | false =>
    cases ha : act s with
    | ok t => exact .inr (.inl ⟨rfl, t, rfl, runWord_of_ok hr ha⟩)
    | error c => exact .inr (.inr ⟨rfl, c, rfl, runWord_of_error hr ha⟩)

/-- If a Push succeeds, the cell is the new top. -/
theorem pushCell_ok {v : Cell} {s t : State} (h : pushCell v s = .ok t) :
    stackFull s = false ∧ t = s.setStack (v :: s.stack) := by
  unfold pushCell at h
  split at h
  · cases h
  · rename_i hf
    cases h
    exact ⟨by simpa using hf, rfl⟩

/-- A Push fails only by CAPACITY, on a full stack. -/
theorem pushCell_error {v : Cell} {s : State} {c : ErrCause} (h : pushCell v s = .error c) :
    stackFull s = true ∧ c = .capacity := by
  unfold pushCell at h
  split at h
  · rename_i hf
    cases h
    exact ⟨hf, rfl⟩
  · cases h

/-- A Push on a stack that is not full. -/
theorem pushCell_of_room {v : Cell} {s : State} (h : stackFull s = false) :
    pushCell v s = .ok (s.setStack (v :: s.stack)) := by
  simp [pushCell, h]

/-- A Pop on a stack with a cell. -/
theorem withPop_of_cons {k : Cell → Act} {s : State} {v : Cell} {rest : List Cell}
    (h : s.stack = v :: rest) : withPop k s = k v (s.setStack rest) := by
  simp [withPop, h]

/-- A Pop on the empty stack. -/
theorem withPop_of_nil {k : Cell → Act} {s : State} (h : s.stack = []) :
    withPop k s = .error .underflow := by
  simp [withPop, h]

/-- Everything a Pop can do. -/
theorem withPop_cases (k : Cell → Act) (s : State) :
    (s.stack = [] ∧ withPop k s = .error .underflow) ∨
    (∃ v rest, s.stack = v :: rest ∧ withPop k s = k v (s.setStack rest)) := by
  cases h : s.stack with
  | nil => exact .inl ⟨rfl, withPop_of_nil h⟩
  | cons v rest => exact .inr ⟨v, rest, rfl, withPop_of_cons h⟩

/-- Everything the two-operand frame can do. -/
theorem withTwo_cases (k : Cell → Cell → Act) (s : State) :
    (s.stack.length < 2 ∧ withTwo k s = .error .underflow) ∨
    (∃ x y rest, s.stack = x :: y :: rest ∧ withTwo k s = k x y (s.setStack rest)) := by
  unfold withTwo
  rcases withPop_cases (fun x => withPop fun y => k x y) s with ⟨h, e⟩ | ⟨x, r, h, e⟩
  · exact .inl ⟨by simp [h], e⟩
  · rw [e]
    rcases withPop_cases (fun y => k x y) (s.setStack r) with ⟨h2, e2⟩ | ⟨y, r2, h2, e2⟩
    · simp only [State.setStack_stack] at h2
      exact .inl ⟨by simp [h, h2], e2⟩
    · simp only [State.setStack_stack] at h2
      exact .inr ⟨x, y, r2, by simp [h, h2], e2⟩

/-- Everything the two-integer frame can do. -/
theorem withTwoInts_cases (k : Byte → Byte → Act) (s : State) :
    (s.stack.length < 2 ∧ withTwoInts k s = .error .underflow) ∨
    (∃ x y rest, s.stack = x :: y :: rest ∧ ((∃ c, x = .chr c) ∨ (∃ c, y = .chr c)) ∧
      withTwoInts k s = .error .type) ∨
    (∃ a b rest, s.stack = .int a :: .int b :: rest ∧
      withTwoInts k s = k a b (s.setStack rest)) := by
  unfold withTwoInts
  rcases withTwo_cases (onInts k) s with ⟨h, e⟩ | ⟨x, y, rest, h, e⟩
  · exact .inl ⟨h, e⟩
  · rw [e]
    cases x with
    | int a =>
      cases y with
      | int b => exact .inr (.inr ⟨a, b, rest, h, rfl⟩)
      | chr c => exact .inr (.inl ⟨_, _, rest, h, .inr ⟨c, rfl⟩, rfl⟩)
    | chr c =>
      cases y with
      | int b => exact .inr (.inl ⟨_, _, rest, h, .inl ⟨c, rfl⟩, rfl⟩)
      | chr d => exact .inr (.inl ⟨_, _, rest, h, .inl ⟨c, rfl⟩, rfl⟩)

/-- Everything the one-integer frame can do. -/
theorem withOneInt_cases (k : Byte → Act) (s : State) :
    (s.stack = [] ∧ withOneInt k s = .error .underflow) ∨
    (∃ c rest, s.stack = .chr c :: rest ∧ withOneInt k s = .error .type) ∨
    (∃ a rest, s.stack = .int a :: rest ∧ withOneInt k s = k a (s.setStack rest)) := by
  unfold withOneInt
  rcases withPop_cases (onInt k) s with ⟨h, e⟩ | ⟨v, rest, h, e⟩
  · exact .inl ⟨h, e⟩
  · rw [e]
    cases v with
    | int a => exact .inr (.inr ⟨a, rest, h, rfl⟩)
    | chr c => exact .inr (.inl ⟨c, rest, h, rfl⟩)

/-- Everything the two-digit frame can do. -/
theorem withTwoDigits_cases (k : Nat → Nat → Act) (s : State) :
    (s.stack.length < 2 ∧ withTwoDigits k s = .error .underflow) ∨
    (∃ x y rest, s.stack = x :: y :: rest ∧ (x.hexval = none ∨ y.hexval = none) ∧
      withTwoDigits k s = .error .type) ∨
    (∃ x y rest a b, s.stack = x :: y :: rest ∧ x.hexval = some a ∧ y.hexval = some b ∧
      withTwoDigits k s = k a b (s.setStack rest)) := by
  unfold withTwoDigits
  rcases withTwo_cases (onDigits k) s with ⟨h, e⟩ | ⟨x, y, rest, h, e⟩
  · exact .inl ⟨h, e⟩
  · rw [e]
    cases hx : x.hexval with
    | none => cases hy : y.hexval <;> exact .inr (.inl ⟨x, y, rest, h, .inl hx, by simp [onDigits, hx, hy]⟩)
    | some a =>
      cases hy : y.hexval with
      | none => exact .inr (.inl ⟨x, y, rest, h, .inr hy, by simp [onDigits, hx, hy]⟩)
      | some b => exact .inr (.inr ⟨x, y, rest, a, b, h, hx, hy, by simp [onDigits, hx, hy]⟩)

/-- The flag and the result are written together, or the stack is full. -/
theorem writeResult_cases (t : Int) (s : State) :
    (stackFull s = true ∧ writeResult t s = .error .capacity) ∨
    (stackFull s = false ∧
      writeResult t s = .ok ((s.setOvf (overflows t)).setStack (.int (truncate t) :: s.stack))) := by
  have hf : stackFull (s.setOvf (overflows t)) = stackFull s := rfl
  cases h : stackFull s with
  | true => exact .inl ⟨rfl, by simp [writeResult, pushCell, hf, h]⟩
  | false => exact .inr ⟨rfl, by simp [writeResult, pushCell, hf, h]⟩

/-- The collected text is that of the popped cells, in the order they are popped. -/
theorem collect_append (vs rest : List Cell) :
    collect vs.length (vs ++ rest) = some ((vs.map Cell.text).flatten, rest) := by
  induction vs with
  | nil => rfl
  | cons v vs ih => simp [collect, ih]

/-- Collecting more cells than there are. -/
theorem collect_of_short {n : Nat} {l : List Cell} (h : l.length < n) : collect n l = none := by
  induction n generalizing l with
  | zero => cases h
  | succ n ih =>
    cases l with
    | nil => rfl
    | cons v l => simp [collect, ih (Nat.lt_of_succ_lt_succ h)]

end Sys2Proof.Machine
end

