-- ==== Sys2Proof/Laws/Exec.lean ====
section
/-! SUPPORT. Every instruction is one EXEC frame around its work, and what a step does with the next
transaction. -/

namespace Sys2Proof.Machine

/-- The run state an instruction leaves when its work succeeds (41_stack_ops.md R91). -/
def after (i : Instr) : RunState := if i = .stp then .stopped else .running

/-- EXEC of every instruction is the shared frame around some work of its own. -/
theorem exec_eq_runWord (i : Instr) : ∃ act : Act, ∀ s, exec i s = runWord (after i) act s := by
  cases i <;> first | exact ⟨noWork, fun _ => rfl⟩ | exact ⟨_, fun _ => rfl⟩

/-- Everything EXEC of an instruction can do. -/
theorem exec_cases (i : Instr) : ∃ act : Act, ∀ s,
    (s.run.terminal = true ∧ exec i s = .next s) ∨
    (s.run.terminal = false ∧ ∃ t, act s = .ok t ∧ exec i s = .next (t.setRun (after i))) ∨
    (s.run.terminal = false ∧ ∃ c, act s = .error c ∧ exec i s = .next (raiseError s c)) := by
  obtain ⟨act, h⟩ := exec_eq_runWord i
  exact ⟨act, fun s => by rw [h s]; exact runWord_cases _ _ _⟩

/-- A step with a transaction pending is that transaction. -/
theorem step_of_pending {s : State} {t : Transaction} {rest : List Transaction}
    (h : s.pending = t :: rest) : step s = issue t (s.setPending rest) := by
  simp [step, takeTransaction, h]

/-- Fetching a placed word takes it and leaves the rest of the queue. -/
theorem withFetchWord_pending {s : State} {nbits w : Nat} {c : CodeWord}
    (h : codeWordOfUnit nbits w = some c) :
    (s.withFetchWord nbits w).pending = .exec c :: s.pending := by
  simp [State.withFetchWord, placeCodeWord, h]

end Sys2Proof.Machine
end

