-- ==== Sys2Proof/Laws/PerInstr.lean ====
section
/-! SUPPORT. A statement about every instruction as syntax, one lemma per constructor: its code word
is of the class its row of spec/opcode_table.json names under "format". -/

namespace Sys2Proof.Laws

/-- The "format" of the instruction's row of the opcode table. -/
def tableClass : Instr → WordClass
  | .push _ => .operand
  | .stp | .dup | .del | .swp | .add | .sub | .mul | .div
  | .exp | .mod | .shl | .shr | .hex | .ieq | .not | .xor => .instruction
  | .chrA | .chrB | .chrC | .chrD | .chrE | .chrF | .chrG | .chrH
  | .chrI | .chrJ | .chrK | .chrL | .chrM | .chrN | .chrO | .chrP
  | .chrQ | .chrR | .chrS | .chrT | .chrU | .chrV | .chrW | .chrX
  | .chrY | .chrZ | .chrSpace | .nop0 | .nop1 | .nop2 | .nop3 | .speak => .character

/-- The code word of the instruction is of its row's class (30_encoding.md R63, R75). -/
def EncodedClass.Statement (i : Instr) : Prop := classOf (encode i) = tableClass i

theorem EncodedClass.push (n : BitVec 4) : EncodedClass.Statement (.push n) := by
  revert n
  unfold EncodedClass.Statement
  decide

theorem EncodedClass.stp : EncodedClass.Statement .stp := by
  unfold EncodedClass.Statement; decide

theorem EncodedClass.dup : EncodedClass.Statement .dup := by
  unfold EncodedClass.Statement; decide

theorem EncodedClass.del : EncodedClass.Statement .del := by
  unfold EncodedClass.Statement; decide

theorem EncodedClass.swp : EncodedClass.Statement .swp := by
  unfold EncodedClass.Statement; decide

theorem EncodedClass.add : EncodedClass.Statement .add := by
  unfold EncodedClass.Statement; decide

theorem EncodedClass.sub : EncodedClass.Statement .sub := by
  unfold EncodedClass.Statement; decide

theorem EncodedClass.mul : EncodedClass.Statement .mul := by
  unfold EncodedClass.Statement; decide

theorem EncodedClass.div : EncodedClass.Statement .div := by
  unfold EncodedClass.Statement; decide

theorem EncodedClass.exp : EncodedClass.Statement .exp := by
  unfold EncodedClass.Statement; decide

theorem EncodedClass.mod : EncodedClass.Statement .mod := by
  unfold EncodedClass.Statement; decide

theorem EncodedClass.shl : EncodedClass.Statement .shl := by
  unfold EncodedClass.Statement; decide

theorem EncodedClass.shr : EncodedClass.Statement .shr := by
  unfold EncodedClass.Statement; decide

theorem EncodedClass.hex : EncodedClass.Statement .hex := by
  unfold EncodedClass.Statement; decide

theorem EncodedClass.ieq : EncodedClass.Statement .ieq := by
  unfold EncodedClass.Statement; decide

theorem EncodedClass.not : EncodedClass.Statement .not := by
  unfold EncodedClass.Statement; decide

theorem EncodedClass.xor : EncodedClass.Statement .xor := by
  unfold EncodedClass.Statement; decide

theorem EncodedClass.chrA : EncodedClass.Statement .chrA := by
  unfold EncodedClass.Statement; decide

theorem EncodedClass.chrB : EncodedClass.Statement .chrB := by
  unfold EncodedClass.Statement; decide

theorem EncodedClass.chrC : EncodedClass.Statement .chrC := by
  unfold EncodedClass.Statement; decide

theorem EncodedClass.chrD : EncodedClass.Statement .chrD := by
  unfold EncodedClass.Statement; decide

theorem EncodedClass.chrE : EncodedClass.Statement .chrE := by
  unfold EncodedClass.Statement; decide

theorem EncodedClass.chrF : EncodedClass.Statement .chrF := by
  unfold EncodedClass.Statement; decide

theorem EncodedClass.chrG : EncodedClass.Statement .chrG := by
  unfold EncodedClass.Statement; decide

theorem EncodedClass.chrH : EncodedClass.Statement .chrH := by
  unfold EncodedClass.Statement; decide

theorem EncodedClass.chrI : EncodedClass.Statement .chrI := by
  unfold EncodedClass.Statement; decide

theorem EncodedClass.chrJ : EncodedClass.Statement .chrJ := by
  unfold EncodedClass.Statement; decide

theorem EncodedClass.chrK : EncodedClass.Statement .chrK := by
  unfold EncodedClass.Statement; decide

theorem EncodedClass.chrL : EncodedClass.Statement .chrL := by
  unfold EncodedClass.Statement; decide

theorem EncodedClass.chrM : EncodedClass.Statement .chrM := by
  unfold EncodedClass.Statement; decide

theorem EncodedClass.chrN : EncodedClass.Statement .chrN := by
  unfold EncodedClass.Statement; decide

theorem EncodedClass.chrO : EncodedClass.Statement .chrO := by
  unfold EncodedClass.Statement; decide

theorem EncodedClass.chrP : EncodedClass.Statement .chrP := by
  unfold EncodedClass.Statement; decide

theorem EncodedClass.chrQ : EncodedClass.Statement .chrQ := by
  unfold EncodedClass.Statement; decide

theorem EncodedClass.chrR : EncodedClass.Statement .chrR := by
  unfold EncodedClass.Statement; decide

theorem EncodedClass.chrS : EncodedClass.Statement .chrS := by
  unfold EncodedClass.Statement; decide

theorem EncodedClass.chrT : EncodedClass.Statement .chrT := by
  unfold EncodedClass.Statement; decide

theorem EncodedClass.chrU : EncodedClass.Statement .chrU := by
  unfold EncodedClass.Statement; decide

theorem EncodedClass.chrV : EncodedClass.Statement .chrV := by
  unfold EncodedClass.Statement; decide

theorem EncodedClass.chrW : EncodedClass.Statement .chrW := by
  unfold EncodedClass.Statement; decide

theorem EncodedClass.chrX : EncodedClass.Statement .chrX := by
  unfold EncodedClass.Statement; decide

theorem EncodedClass.chrY : EncodedClass.Statement .chrY := by
  unfold EncodedClass.Statement; decide

theorem EncodedClass.chrZ : EncodedClass.Statement .chrZ := by
  unfold EncodedClass.Statement; decide

theorem EncodedClass.chrSpace : EncodedClass.Statement .chrSpace := by
  unfold EncodedClass.Statement; decide

theorem EncodedClass.nop0 : EncodedClass.Statement .nop0 := by
  unfold EncodedClass.Statement; decide

theorem EncodedClass.nop1 : EncodedClass.Statement .nop1 := by
  unfold EncodedClass.Statement; decide

theorem EncodedClass.nop2 : EncodedClass.Statement .nop2 := by
  unfold EncodedClass.Statement; decide

theorem EncodedClass.nop3 : EncodedClass.Statement .nop3 := by
  unfold EncodedClass.Statement; decide

theorem EncodedClass.speak : EncodedClass.Statement .speak := by
  unfold EncodedClass.Statement; decide

end Sys2Proof.Laws
end

