-- ==== Sys2Proof/Tests/Slice0.lean ====
section
/-! SUPPORT. Tests of the model: the words of the encoding tables, the checks of well-formedness, the
worked examples and vectors of 95_test_vectors.md (each one step), and a witness for the hypotheses of
every statement that has some. -/

namespace Sys2Proof.Tests

open Sys2Proof.Machine

/-- A machine in RUNNING with the given stack, written bottom first as in 95_test_vectors.md. -/
def at' (l : List Cell) : State := { State.reset with run := .running, stack := l.reverse }

/-- The state with a finite `STACK_DEPTH`. -/
def bounded (d : Nat) (s : State) : State := { s with cfg := { s.cfg with stackDepth := some d } }

/-- The state whose next transaction is the given one. -/
def issuing (t : Transaction) (s : State) : State := { s with pending := [t] }

/-- What an outcome leaves: the stack bottom first, the flag, the run state and the cause. -/
def seen : Result → Option (List Cell × Bool × RunState × ErrCause)
  | .next t => some (t.stack.reverse, t.ovf, t.run, t.errCause)
  | .fault _ => none
  | .refused _ => none

/-- What an outcome leaves in the record of outputs. -/
def told : Result → Option (List Output)
  | .next t => some t.outputs
  | .fault _ => none
  | .refused _ => none

/-! ## Words, from the tables of 30_encoding.md R64, R66, R67 -/

theorem test_decode_push : decode 0b001010#6 = .ok (.push 10#4) := by decide
theorem test_decode_push_top : decode 0b001111#6 = .ok (.push 15#4) := by decide
theorem test_decode_instructions :
    [0b010000#6, 0b010001#6, 0b010010#6, 0b010011#6, 0b010100#6, 0b010101#6, 0b010110#6, 0b010111#6,
      0b011000#6, 0b011001#6, 0b011010#6, 0b011011#6, 0b011100#6, 0b011101#6, 0b011110#6,
      0b011111#6].map (fun w => (decode w).toOption) =
    [Instr.stp, .dup, .del, .swp, .add, .sub, .mul, .div, .exp, .mod, .shl, .shr, .hex, .ieq, .not,
      .xor].map some := by decide
theorem test_decode_letters_a_to_m :
    [0b100000#6, 0b100001#6, 0b100010#6, 0b100011#6, 0b100100#6, 0b100101#6, 0b100110#6, 0b100111#6,
      0b101000#6, 0b101001#6, 0b101010#6, 0b101011#6, 0b101100#6].map (fun w => (decode w).toOption) =
    [Instr.chrA, .chrB, .chrC, .chrD, .chrE, .chrF, .chrG, .chrH, .chrI, .chrJ, .chrK, .chrL,
      .chrM].map some := by decide
theorem test_decode_letters_n_to_z :
    [0b101101#6, 0b101110#6, 0b101111#6, 0b110000#6, 0b110001#6, 0b110010#6, 0b110011#6, 0b110100#6,
      0b110101#6, 0b110110#6, 0b110111#6, 0b111000#6, 0b111001#6].map (fun w => (decode w).toOption) =
    [Instr.chrN, .chrO, .chrP, .chrQ, .chrR, .chrS, .chrT, .chrU, .chrV, .chrW, .chrX, .chrY,
      .chrZ].map some := by decide
theorem test_decode_others :
    [0b111010#6, 0b111011#6, 0b111100#6, 0b111101#6, 0b111110#6, 0b111111#6].map
      (fun w => (decode w).toOption) =
    [Instr.chrSpace, .nop0, .nop1, .nop2, .nop3, .speak].map some := by decide
theorem test_decode_bits : decodeBits [false, true, false, true, false, false] = .ok .add := by decide
theorem test_decode_bits_wrong_width :
    decodeBits [false, true, false, true, false] = .error .wrongWidth := by decide
theorem test_decode_unmapped : decodeWith [] charmapReference 0b010100#6 = .error .unrecognized := by
  decide
theorem test_table_word : decodeTableWord 8 21 = some .sub := by decide
theorem test_table_word_with_high_bit : decodeTableWord 8 85 = none := by decide
theorem test_fetch_word_runs :
    seen (step (State.reset.withFetchWord 8 16)) = some ([], false, .stopped, .none) := by decide

/-! ## Well-formedness: each check refuses an ill-formed term (00_scope.md R11) -/

theorem test_reference_wf : referenceConfig.wf = true := by decide
theorem test_wf_refuses_unmapped_instruction :
    Instr.add.wf (opmapReference.take 3) charmapReference = false := by decide
theorem test_wf_refuses_equal_patterns :
    CodeMap.distinctPatterns [(0b010000#6, .stp), (0b010000#6, .dup)] = false := by decide
theorem test_wf_refuses_wrong_class : CodeMap.inClass [(0b100000#6, .stp)] .instruction = false := by
  decide
theorem test_wf_refuses_push_in_opmap : opmapRange [(0b010000#6, .push 3#4)] = false := by decide
theorem test_wf_refuses_two_patterns_of_an_opcode :
    opmapInjective [(0b010000#6, .add), (0b010001#6, .add)] = false := by decide
theorem test_wf_refuses_opcode_in_charmap : charmapRange [(0b100000#6, .add)] = false := by decide
theorem test_wf_refuses_missing_token : charmapTokens (charmapReference.drop 1) = false := by decide
theorem test_wf_refuses_depth_one : depthOk (some 1) = false := by decide
theorem test_wf_refuses_equal_check_rows :
    (matricesOf (Vector.replicate 6 0b1100#4)).locatesSingles = false := by decide
theorem test_wf_refuses_configuration_with_depth_one :
    powerOn { referenceConfig with stackDepth := some 1 } = .error .invalidParameters := by decide

/-! ## The codec (95_test_vectors.md sections 1 and 2) -/

/-- The seed of 95_test_vectors.md section 2.1. -/
def exampleSeed : GeneratorMatrix :=
  #v[0b0110000011#10, 0b1100000110#10, 0b0001000110#10, 0b0010101100#10, 0b0000110110#10,
    0b0000010011#10]

theorem test_seed_reduces_to_generator : systematic exampleSeed =
    some #v[0b1000001100#10, 0b0100001010#10, 0b0010001001#10, 0b0001000110#10, 0b0000100101#10,
      0b0000010011#10] := by decide
theorem test_singular_seed_refused :
    powerOn { referenceConfig with seed := some (exampleSeed.set 1 exampleSeed[0]) } =
      .error .singularSeed := by decide
theorem test_check_matrix : (matricesOf parityReference).h =
    #v[0b1110001000#10, 0b1001100100#10, 0b0101010010#10, 0b0010110001#10] := by decide
theorem test_check_rows : (matricesOf parityReference).ht =
    #v[0b1100#4, 0b1010#4, 0b1001#4, 0b0110#4, 0b0101#4, 0b0011#4, 0b1000#4, 0b0100#4, 0b0010#4,
      0b0001#4] := by decide
theorem test_enc : told (step (issuing (.enc 0b001010#6) State.reset)) =
    some [.encReturned 0b00101011000#11] := by decide
theorem test_enc_mod : enc State.reset.codec 0b011001#6 = 0b01100100001#11 := by decide
theorem test_dec_valid : dec State.reset.codec 0b00101011000#11 = (0b001010#6, .valid) := by decide
theorem test_dec_data_bit : told (step (issuing (.dec 0b00111011000#11) State.reset)) =
    some [.decReturned 0b001010#6 .corrected] := by decide
theorem test_dec_parity_bit : dec State.reset.codec 0b00101011010#11 = (0b001010#6, .corrected) := by
  decide
theorem test_dec_overall_bit : dec State.reset.codec 0b00101011001#11 = (0b001010#6, .corrected) := by
  decide
theorem test_dec_double : dec State.reset.codec 0b11101011000#11 = (0b111010#6, .uncorrectable) := by
  decide
theorem test_dec_no_row : dec State.reset.codec 0b11100000000#11 = (0b111000#6, .uncorrectable) := by
  decide
theorem test_dec_miscorrection :
    dec State.reset.codec 0b11010000000#11 = (0b110100#6, .corrected) := by decide
theorem test_outcome_code_reserved : outcomeOfCode 0b11#2 = .error .reservedOutcomeCode := by decide
theorem test_cell_code_reserved : cellOfBits 0b100000000#9 = .error .reservedCellCode := by decide

/-! ## Instructions (95_test_vectors.md sections 3 to 7) -/

theorem test_push :
    seen (exec (.push 15#4) State.reset) = some ([.int 15#8], false, .running, .none) := by decide
theorem test_push_capacity :
    seen (exec (.push 3#4) (bounded 2 (at' [.int 1#8, .int 2#8]))) = some ([.int 1#8, .int 2#8], false, .error, .capacity) := by decide
theorem test_chr :
    seen (exec .chrH (at' [.int 3#8])) = some ([.int 3#8, .chr .H], false, .running, .none) := by decide
theorem test_chr_capacity :
    seen (exec .chrA (bounded 2 (at' [.int 1#8, .int 2#8]))) = some ([.int 1#8, .int 2#8], false, .error, .capacity) := by decide
theorem test_chr_space :
    seen (exec .chrSpace State.reset) = some ([.chr .SPACE], false, .running, .none) := by decide
theorem test_chr_last :
    seen (exec .chrZ State.reset) = some ([.chr .Z], false, .running, .none) := by decide
theorem test_nop_from_idle :
    seen (exec .nop0 State.reset) = some ([], false, .running, .none) := by decide
theorem test_nop3 :
    seen (exec .nop3 (at' [.int 1#8])) = some ([.int 1#8], false, .running, .none) := by decide
theorem test_stp :
    seen (exec .stp (at' [.int 17#8])) = some ([.int 17#8], false, .stopped, .none) := by decide
theorem test_dup :
    seen (exec .dup (at' [.chr .A])) = some ([.chr .A, .chr .A], false, .running, .none) := by decide
theorem test_dup_underflow :
    seen (exec .dup State.reset) = some ([], false, .error, .underflow) := by decide
theorem test_del :
    seen (exec .del (at' [.int 1#8, .chr .A])) = some ([.int 1#8], false, .running, .none) := by decide
theorem test_del_underflow :
    seen (exec .del (at' [])) = some ([], false, .error, .underflow) := by decide
theorem test_swp :
    seen (exec .swp (at' [.int 1#8, .chr .B])) = some ([.chr .B, .int 1#8], false, .running, .none) := by decide
theorem test_swp_underflow :
    seen (exec .swp (at' [.int 9#8])) = some ([.int 9#8], false, .error, .underflow) := by decide
theorem test_add_wraps :
    seen (exec .add (at' [.int 200#8, .int 100#8])) = some ([.int 44#8], true, .running, .none) := by decide
theorem test_add_underflow_before_type :
    seen (exec .add (at' [.chr .A])) = some ([.chr .A], false, .error, .underflow) := by decide
theorem test_sub_borrows :
    seen (exec .sub (at' [.int 3#8, .int 5#8])) = some ([.int 254#8], true, .running, .none) := by decide
theorem test_sub_type :
    seen (exec .sub (at' [.int 1#8, .chr .A])) = some ([.int 1#8, .chr .A], false, .error, .type) := by decide
theorem test_mul :
    seen (exec .mul (at' [.int 16#8, .int 16#8])) = some ([.int 0#8], true, .running, .none) := by decide
theorem test_div :
    seen (exec .div (at' [.int 7#8, .int 2#8])) = some ([.int 3#8], false, .running, .none) := by decide
theorem test_div_type_before_zero :
    seen (exec .div (at' [.chr .A, .int 0#8])) = some ([.chr .A, .int 0#8], false, .error, .type) := by decide
theorem test_exp_large :
    seen (exec .exp (at' [.int 255#8, .int 255#8])) = some ([.int 255#8], true, .running, .none) := by decide
theorem test_exp_zero_zero :
    seen (exec .exp (at' [.int 0#8, .int 0#8])) = some ([.int 1#8], false, .running, .none) := by decide
theorem test_mod :
    seen (exec .mod (at' [.int 7#8, .int 3#8])) = some ([.int 1#8], false, .running, .none) := by decide
theorem test_shl_out :
    seen (exec .shl (at' [.int 1#8, .int 8#8])) = some ([.int 0#8], true, .running, .none) := by decide
theorem test_shl_of_zero :
    seen (exec .shl (at' [.int 0#8, .int 200#8])) = some ([.int 0#8], false, .running, .none) := by decide
theorem test_shr :
    seen (exec .shr (at' [.int 255#8, .int 7#8])) = some ([.int 1#8], false, .running, .none) := by decide
theorem test_shr_out :
    seen (exec .shr (at' [.int 255#8, .int 8#8])) = some ([.int 0#8], false, .running, .none) := by decide
theorem test_hex :
    seen (exec .hex (at' [.chr .F, .chr .A])) = some ([.int 250#8], false, .running, .none) := by decide
theorem test_hex_format :
    seen (exec .hex (at' [.chr .G, .chr .A])) = some ([.chr .G, .chr .A], false, .error, .type) := by decide
theorem test_ieq :
    seen (exec .ieq (at' [.int 7#8, .int 6#8])) = some ([.int 0#8], false, .running, .none) := by decide
theorem test_ieq_characters :
    seen (exec .ieq (at' [.chr .A, .chr .A])) = some ([.chr .A, .chr .A], false, .error, .type) := by decide
theorem test_not :
    seen (exec .not (at' [.int 5#8])) = some ([.int 250#8], false, .running, .none) := by decide
theorem test_xor :
    seen (exec .xor (at' [.int 12#8, .int 10#8])) = some ([.int 6#8], false, .running, .none) := by decide
theorem test_speak_restores :
    seen (exec .speak (at' [.chr .A, .int 3#8])) = some ([.chr .A, .int 3#8], false, .error, .underflow) := by decide
theorem test_sticky_error :
    seen (exec .add { at' [.int 5#8, .int 0#8] with run := .error, errCause := .divZero }) = some ([.int 5#8, .int 0#8], false, .error, .divZero) := by decide
theorem test_mod_by_zero_keeps_flag :
    seen (exec .mod { at' [.int 1#8, .int 0#8] with ovf := true }) =
      some ([.int 1#8, .int 0#8], true, .error, .divZero) := by decide
theorem test_xor_keeps_flag :
    seen (exec .xor { at' [.int 1#8, .int 2#8] with ovf := true }) =
      some ([.int 3#8], true, .running, .none) := by decide
theorem test_mul_clears_flag :
    seen (exec .mul { at' [.int 15#8, .int 15#8] with ovf := true }) =
      some ([.int 225#8], false, .running, .none) := by decide
theorem test_speak_announces :
    told (exec .speak (at' [.int 12#8, .chr .SPACE, .chr .A, .int 3#8])) =
      some [.announced ['A', ' ', '1', '2']] := by decide

/-! ## Transactions, boundary and host (95_test_vectors.md sections 6 to 8) -/

theorem test_top_bits : topView (at' [.int 17#8]) = .bits 0b00010001#8 := by decide
theorem test_top_space : topView (at' [.chr .A, .chr .SPACE]) = .space := by decide
theorem test_reset_leaves_error :
    seen (step (issuing .reset { at' [.int 5#8] with run := .error, errCause := .type, ovf := true })) =
      some ([], false, .idle, .none) := by decide
theorem test_exec_returns_run_state :
    told (step (issuing (.exec 0b010001#6) State.reset)) = some [.execReturned .error] := by decide
theorem test_undefined_bit_refused :
    accept .enc [some true, none, some true, some true, some true, some true] =
      .error .undefinedBit := by decide
theorem test_five_bits_refused :
    accept .exec [some true, some true, some true, some true, some true] = .error .wrongWidth := by
  decide
theorem test_driver_reads_undefined_bits_again :
    assembleWords [some false, none, some false, some true, some false, some true, some false,
      some true, some true, none, some false, some false, some false] = [0b00101011000#11] := by decide
theorem test_driver_drops_uncorrectable :
    seen (drive [0b10011101001#11, 0b00011100001#11] State.reset) =
      some ([.int 7#8], false, .running, .none) := by decide
theorem test_assemble :
    assemble "PUSH 10 ; ten\n\n CHR SPACE\nNOP\nSPEAK".toList =
      .ok [.push 10#4, .chrSpace, .nop0, .speak] := by decide
theorem test_assemble_refuses_sixteen : assemble "PUSH 16".toList = .error .badLiteral := by decide

/-! ## Witnesses: states and operands that meet the hypotheses of each statement -/

/-- An unbounded stack is within its depth. -/
theorem fits_unbounded {s : State} (h : s.cfg.stackDepth = none) : StackFits s := by
  intro d hd
  rw [h] at hd
  cases hd

/-- An unbounded stack is never full. -/
theorem notFull_unbounded {s : State} (h : s.cfg.stackDepth = none) : NotFull s := by
  intro d hd
  rw [h] at hd
  cases hd

/-- A finite stack within its depth. -/
theorem fits_bounded {s : State} {d : Nat} (h : s.cfg.stackDepth = some d)
    (hl : s.stack.length ≤ d) : StackFits s := by
  intro e he
  rw [h] at he
  cases he
  exact hl

/-- A finite stack below its depth. -/
theorem notFull_bounded {s : State} {d : Nat} (h : s.cfg.stackDepth = some d)
    (hl : s.stack.length < d) : NotFull s := by
  intro e he
  rw [h] at he
  cases he
  exact Nat.ne_of_lt hl

theorem witness_EliminationGivesInverseTimesSeed :
    systematic exampleSeed = some (generatorOf parityReference) := by decide
theorem witness_EncMultipliesByGenerator :
    (issuing (.enc 0b111111#6) State.reset).pending = .enc 0b111111#6 :: [] := rfl
theorem witness_DecFollowsDecisionTable :
    (issuing (.dec 0b00101011000#11) State.reset).pending = .dec 0b00101011000#11 :: [] ∧
    (parity 0b00101011000#11 = false ∧ syndrome State.reset.codec 0b0010101100#10 = 0#4) ∧
    (parity 0b00101011001#11 = true ∧ syndrome State.reset.codec 0b0010101100#10 = 0#4) ∧
    (parity 0b11101011000#11 = false ∧ syndrome State.reset.codec 0b1110101100#10 ≠ 0#4) ∧
    (parity 0b10101011000#11 = true ∧
      syndrome State.reset.codec 0b1010101100#10 = State.reset.codec.ht[0]) ∧
    (parity 0b00101011010#11 = true ∧
      syndrome State.reset.codec 0b0010101101#10 = State.reset.codec.ht[9] ∧
      ∀ i : Fin 9, State.reset.codec.ht[i.val] ≠ State.reset.codec.ht[9]) ∧
    (parity 0b11100000000#11 = true ∧ syndrome State.reset.codec 0b1110000000#10 = 0b1111#4 ∧
      ∀ j : Fin 10, State.reset.codec.ht[j] ≠ 0b1111#4) := by decide
theorem witness_SingleErrorIsCorrected :
    (matricesOf parityReference).ht.toList.Nodup ∧ 0#4 ∉ (matricesOf parityReference).ht.toList := by
  decide
theorem witness_DoubleErrorIsDetected :
    (matricesOf parityReference).ht.toList.Nodup ∧ 0#4 ∉ (matricesOf parityReference).ht.toList ∧
      (0 : Fin 11) ≠ 10 := by decide
theorem witness_NoisyRunEqualsCleanRun :
    State.reset.codec = matricesOf parityReference ∧
    Received (matricesOf parityReference) [0b001010#6, 0b000111#6]
      [0b00111011000#11, 0b10011101001#11, 0b00011100001#11] :=
  ⟨rfl, .good _ _ _ _ (by decide) (.again _ _ _ _ (by decide) (.good _ _ _ _ (by decide) .done))⟩
theorem witness_EncodeDecodeRoundTripForEveryMap :
    opmapReference.distinctPatterns = true ∧ opmapReference.inClass .instruction = true ∧
    charmapReference.distinctPatterns = true ∧ charmapReference.inClass .character = true ∧
    Instr.speak.wf opmapReference charmapReference = true ∧
    encodeWith opmapReference charmapReference .xor = some 0b011111#6 ∧
    decodeWith opmapReference charmapReference 0b111111#6 = .ok .speak := by decide
theorem witness_ClassBitsSelectTheDecoder :
    (elem 0b000000#6 0 = false ∧ elem 0b000000#6 1 = false) ∧
    (elem 0b001111#6 0 = false ∧ elem 0b001111#6 1 = false) ∧
    (elem 0b010000#6 0 = false ∧ elem 0b010000#6 1 = true) ∧
    (elem 0b011111#6 0 = false ∧ elem 0b011111#6 1 = true) ∧
    elem 0b100000#6 0 = true ∧ elem 0b111111#6 0 = true := by decide
theorem witness_CellBitsRoundTrip :
    cellOfBits 0b011111111#9 = .ok (.int 255#8) ∧ cellOfBits 0b100100000#9 = .ok (.chr .SPACE) := by
  decide
theorem witness_StepRunsTheDecodedInstruction :
    (issuing (.exec 0b010100#6) State.reset).pending = .exec 0b010100#6 :: [] ∧
    decodeWith State.reset.cfg.opmap State.reset.cfg.charmap 0b010100#6 = .ok .add ∧
    Instr.add.wf State.reset.cfg.opmap State.reset.cfg.charmap = true := by decide
theorem witness_WaitsWithoutATransaction : State.reset.pending = [] := rfl

/-- A machine whose maps are empty. -/
def unmapped : State := { State.reset with cfg := { referenceConfig with opmap := [], charmap := [] } }

theorem witness_UnrecognizedWordRaisesError :
    CanRun unmapped ∧
    ((classOf 0b010000#6 = .instruction ∧ ∀ e ∈ unmapped.cfg.opmap, e.1 ≠ 0b010000#6) ∧
     (classOf 0b100000#6 = .character ∧ ∀ e ∈ unmapped.cfg.charmap, e.1 ≠ 0b100000#6)) :=
  ⟨.inl rfl, ⟨by decide, fun e h => nomatch h⟩, by decide, fun e h => nomatch h⟩
theorem witness_TerminalStatesAreSticky :
    ({ State.reset with run := .stopped }.run = .stopped ∨
      { State.reset with run := .stopped }.run = .error) ∧
    (issuing (.exec 0b000001#6) { State.reset with run := .error }).pending =
      .exec 0b000001#6 :: [] ∧
    seen (step (issuing .reset { State.reset with run := .error })) =
      some ([], false, .idle, .none) :=
  ⟨.inl rfl, rfl, by decide⟩
theorem witness_FailedWordLeavesWordStart :
    CanRun (issuing (.exec 0b010001#6) State.reset) ∧
    seen (step (issuing (.exec 0b010001#6) State.reset)) = some ([], false, .error, .underflow) :=
  ⟨.inl rfl, by decide⟩
theorem witness_ExecLeavesRunningStoppedOrError : CanRun State.reset ∧ CanRun (at' []) :=
  ⟨.inl rfl, .inr rfl⟩
theorem witness_OverflowFlagWrittenOnlyByArithmetic :
    ¬ WritesOvf .xor ∧ (∃ t, exec .xor (at' [.int 1#8, .int 2#8]) = .next t) ∧
    WritesOvf .div ∧ ∃ t, exec .div (at' [.int 1#8, .int 0#8]) = .next t ∧ t.run = .error :=
  ⟨by simp [WritesOvf], ⟨_, rfl⟩, by simp [WritesOvf], _, rfl, rfl⟩
theorem witness_OnlySpeakAnnounces :
    (∃ t, exec .speak (at' [.int 7#8, .int 0#8]) = .next t) ∧ ∃ t, exec .dup State.reset = .next t :=
  ⟨⟨_, rfl⟩, _, rfl⟩
theorem witness_CausesAreExactlyTheListedOnes :
    ErrCause.divZero ∈ MayRaise .mod ∧ CanRun (at' [.int 1#8, .int 0#8]) ∧
    StackFits (at' [.int 1#8, .int 0#8]) ∧
    exec .mod (at' [.int 1#8, .int 0#8]) = .next (failed (at' [.int 1#8, .int 0#8]) .divZero) :=
  ⟨by decide, .inr rfl, fits_unbounded rfl, rfl⟩
theorem witness_StackMovesAreBounded :
    (∃ t, exec (.push 0#4) State.reset = .next t) ∧ ∃ t, exec .del (at' [.int 0#8]) = .next t :=
  ⟨⟨_, rfl⟩, _, rfl⟩
theorem witness_ResetSetsEveryElement :
    (issuing .reset (at' [.int 5#8])).pending = .reset :: [] ∧
    ∃ t, step (issuing .reset { State.reset with run := .stopped }) = .next t ∧ t.run ≠ .stopped :=
  ⟨rfl, _, rfl, by decide⟩
theorem witness_PowerOnGivesResetState :
    ∃ s, powerOn { referenceConfig with stackDepth := some 2 } = .ok s := ⟨_, rfl⟩
theorem witness_ConstantsNeverChange : ∃ t, step (issuing (.exec 0b000001#6) State.reset) = .next t :=
  ⟨_, rfl⟩
theorem witness_InvariantHoldsAtPowerOn :
    ∃ s, powerOn { referenceConfig with seed := some exampleSeed } = .ok s := ⟨_, rfl⟩
theorem witness_EveryStepKeepsTheInvariant :
    Inv (issuing (.exec 0b010001#6) State.reset) ∧
    ∃ t, step (issuing (.exec 0b010001#6) State.reset) = .next t :=
  ⟨⟨fits_unbounded rfl, ⟨fun _ => by decide, fun _ => rfl⟩, rfl, fun h => nomatch h⟩, _, rfl⟩
theorem witness_TopReturnsTheViewAndChangesNothing :
    (issuing .top State.reset).pending = .top :: [] ∧ (issuing .top State.reset).stack = [] ∧
    (issuing .top (at' [.int 255#8])).stack = .int 255#8 :: [] ∧
    (issuing .top (at' [.chr .SPACE])).stack = .chr .SPACE :: [] ∧
    (issuing .top (at' [.chr .Z])).stack = .chr .Z :: [] ∧ Token.Z ≠ .SPACE := by decide
theorem witness_PushRule :
    CanRun State.reset ∧ NotFull State.reset ∧ CanRun (bounded 2 (at' [.int 1#8])) ∧
    NotFull (bounded 2 (at' [.int 1#8])) ∧ Full (bounded 2 (at' [.int 1#8, .int 2#8])) :=
  ⟨.inl rfl, notFull_unbounded rfl, .inr rfl, notFull_bounded rfl (by decide), rfl⟩
theorem witness_CharacterPushRule :
    CanRun State.reset ∧ NotFull State.reset ∧ Full (bounded 2 (at' [.int 1#8, .chr .Z])) :=
  ⟨.inl rfl, notFull_unbounded rfl, rfl⟩
theorem witness_NopRule : CanRun State.reset ∧ CanRun (at' [.int 1#8]) := ⟨.inl rfl, .inr rfl⟩
theorem witness_StopRule : CanRun State.reset ∧ CanRun (at' [.int 17#8]) := ⟨.inl rfl, .inr rfl⟩
theorem witness_DupRule :
    CanRun (at' []) ∧ (at' []).stack = [] ∧ (bounded 2 (at' [.chr .A])).stack = .chr .A :: [] ∧
    StackFits (bounded 2 (at' [.chr .A])) ∧ NotFull (bounded 2 (at' [.chr .A])) ∧
    (bounded 2 (at' [.int 1#8, .int 2#8])).stack = .int 2#8 :: [.int 1#8] ∧
    Full (bounded 2 (at' [.int 1#8, .int 2#8])) :=
  ⟨.inr rfl, rfl, rfl, fits_bounded rfl (by decide), notFull_bounded rfl (by decide), rfl, rfl⟩
theorem witness_DelRule :
    CanRun (at' []) ∧ (at' []).stack = [] ∧ (at' [.int 7#8]).stack = .int 7#8 :: [] :=
  ⟨.inr rfl, rfl, rfl⟩
theorem witness_SwpRule :
    CanRun (bounded 2 (at' [.int 1#8, .chr .B])) ∧ StackFits (bounded 2 (at' [.int 1#8, .chr .B])) ∧
    (bounded 2 (at' [.int 1#8, .chr .B])).stack = .chr .B :: .int 1#8 :: [] ∧
    (at' [.int 9#8]).stack.length < 2 :=
  ⟨.inr rfl, fits_bounded rfl (by decide), rfl, by decide⟩

/-- The hypotheses of the rule of a two-integer instruction, in all its clauses: fewer than two cells, a
character on either side, and two integers on a full stack. -/
def TwoIntsMet (y x : Byte) : Prop :=
  CanRun (at' [.int y]) ∧ (at' [.int y]).stack.length < 2 ∧ CanRun (at' [.chr .A, .int x]) ∧
  (at' [.chr .A, .int x]).stack = .int x :: .chr .A :: [] ∧ CanRun (at' [.int y, .chr .Z]) ∧
  (at' [.int y, .chr .Z]).stack = .chr .Z :: .int y :: [] ∧
  CanRun (bounded 2 (at' [.int y, .int x])) ∧ StackFits (bounded 2 (at' [.int y, .int x])) ∧
  (bounded 2 (at' [.int y, .int x])).stack = .int x :: .int y :: []

theorem twoInts_met (y x : Byte) : TwoIntsMet y x :=
  ⟨.inr rfl, by simp [at'], .inr rfl, rfl, .inr rfl, rfl, .inr rfl,
    fits_bounded rfl (by simp [at', bounded]), rfl⟩

theorem witness_AddRule : TwoIntsMet 255#8 1#8 := twoInts_met _ _
theorem witness_SubRule : TwoIntsMet 0#8 255#8 := twoInts_met _ _
theorem witness_MulRule : TwoIntsMet 255#8 255#8 := twoInts_met _ _
theorem witness_ExpRule : TwoIntsMet 0#8 0#8 := twoInts_met _ _
theorem witness_ShlRule : TwoIntsMet 255#8 8#8 := twoInts_met _ _
theorem witness_ShrRule : TwoIntsMet 255#8 255#8 := twoInts_met _ _
theorem witness_XorRule : TwoIntsMet 85#8 255#8 := twoInts_met _ _
theorem witness_DivRule : TwoIntsMet 1#8 0#8 ∧ TwoIntsMet 255#8 1#8 ∧ (1#8 : Byte) ≠ 0#8 :=
  ⟨twoInts_met _ _, twoInts_met _ _, by decide⟩
theorem witness_ModRule : TwoIntsMet 9#8 0#8 ∧ TwoIntsMet 255#8 1#8 ∧ (1#8 : Byte) ≠ 0#8 :=
  ⟨twoInts_met _ _, twoInts_met _ _, by decide⟩
theorem witness_IeqRule : TwoIntsMet 0#8 0#8 ∧ TwoIntsMet 0#8 255#8 ∧ (255#8 : Byte) ≠ 0#8 :=
  ⟨twoInts_met _ _, twoInts_met _ _, by decide⟩
theorem witness_HexRule :
    CanRun (at' [.chr .A, .chr .F]) ∧ StackFits (at' [.chr .A, .chr .F]) ∧
    (at' [.chr .A, .chr .F]).stack = .chr .F :: .chr .A :: [] ∧
    (Token.F, 15) ∈ [(Token.A, 10), (.B, 11), (.C, 12), (.D, 13), (.E, 14), (.F, 15)] ∧
    (Token.A, 10) ∈ [(Token.A, 10), (.B, 11), (.C, 12), (.D, 13), (.E, 14), (.F, 15)] ∧
    (at' [.chr .G, .int 5#8]).stack = .int 5#8 :: .chr .G :: [] ∧
    Cell.int 5#8 ∉ [Token.A, .B, .C, .D, .E, .F].map Cell.chr ∧
    Cell.chr .G ∉ [Token.A, .B, .C, .D, .E, .F].map Cell.chr ∧ (at' [.chr .A]).stack.length < 2 :=
  ⟨.inr rfl, fits_unbounded rfl, rfl, by decide, by decide, rfl, by decide, by decide, by decide⟩
theorem witness_NotRule :
    CanRun (at' []) ∧ (at' []).stack = [] ∧ (at' [.chr .A]).stack = .chr .A :: [] ∧
    StackFits (bounded 2 (at' [.int 0#8, .int 255#8])) ∧
    (bounded 2 (at' [.int 0#8, .int 255#8])).stack = .int 255#8 :: [.int 0#8] :=
  ⟨.inr rfl, rfl, rfl, fits_bounded rfl (by decide), rfl⟩
theorem witness_SpeakRule :
    CanRun (at' []) ∧ (at' []).stack = [] ∧ (at' [.chr .A]).stack = .chr .A :: [] ∧
    ((at' [.chr .A, .int 2#8]).stack = .int 2#8 :: [.chr .A] ∧ [Cell.chr .A].length < (2#8).toNat) ∧
    ((at' [.int 7#8, .int 0#8]).stack = .int 0#8 :: ([] ++ [.int 7#8]) ∧
      ([] : List Cell).length = (0#8).toNat) ∧
    (at' [.int 9#8, .chr .H, .int 1#8]).stack = .int 1#8 :: ([.chr .H] ++ [.int 9#8]) ∧
    [Cell.chr .H].length = (1#8).toNat :=
  ⟨.inr rfl, rfl, rfl, ⟨rfl, by decide⟩, ⟨rfl, rfl⟩, rfl, rfl⟩

end Sys2Proof.Tests
end

section
/-! The elements of concatenations, unit vectors and words built from a list of bits. -/

namespace Sys2Proof

/-- The left part of a concatenation. -/
theorem elem_append_left {n m : Nat} (a : BitVec n) (b : BitVec m) {i : Nat} (hi : i < n) :
    elem (a ++ b) i = elem a i := by
  simp [elem, BitVec.getMsbD_append, Nat.not_le.mpr hi]

/-- The right part of a concatenation. -/
theorem elem_append_right {n m : Nat} (a : BitVec n) (b : BitVec m) (i : Nat) :
    elem (a ++ b) (n + i) = elem b i := by
  simp [elem, BitVec.getMsbD_append]

/-- A unit vector is a row of the identity matrix (10_state.md R25). -/
@[simp] theorem elem_unitVec {n : Nat} (i j : Fin n) :
    elem (unitVec n i.val) j.val = decide (j = i) := by
  have hpos : n - 1 - i.val < n := by omega
  have hindex : (j.val = n - (n - 1 - i.val) - 1) ↔ j = i := by omega
  simp [elem, unitVec, BitVec.getMsbD_twoPow, hpos, hindex]

/-- Reading one more bit doubles the value and adds the bit (00_scope.md R13). -/
theorem uintOf_concat (bs : List Bool) (b : Bool) : uintOf (bs ++ [b]) = Nat.bit b (uintOf bs) := by
  simp [uintOf, Nat.bit_val]

/-- The bits of the unsigned integer of a list, the first element the most significant one. -/
theorem testBit_uintOf (bs : List Bool) {i : Nat} (hi : i < bs.length) :
    (uintOf bs).testBit (bs.length - 1 - i) = bs[i] := by
  induction bs using List.reverseRecOn with
  | nil => exact absurd hi (Nat.not_lt_zero i)
  | append_singleton bs b ih =>
    rw [List.length_append, List.length_singleton, Nat.add_sub_cancel, uintOf_concat]
    by_cases hlast : i < bs.length
    · have hpos : bs.length - i = (bs.length - 1 - i).succ := by omega
      rw [hpos, Nat.testBit_bit_succ, ih hlast, List.getElem_append_left hlast]
    · have heq : i = bs.length := by simp at hi; omega
      subst heq
      simp

/-- The word made of a list of bits has these bits as its elements (00_scope.md R12, R13). -/
theorem elem_ofNat_uintOf {n : Nat} (bs : List Bool) (hlen : bs.length = n) {i : Nat}
    (hi : i < bs.length) : elem (BitVec.ofNat n (uintOf bs)) i = bs[i] := by
  subst hlen
  have hpos : bs.length - 1 - i < bs.length := by omega
  rw [elem, BitVec.getMsbD_eq_getLsbD, BitVec.getLsbD_ofNat, testBit_uintOf bs hi]
  simp [hi, hpos]

end Sys2Proof
end

section
/-! The rows and the elements of the codec matrices (10_state.md R25). -/

namespace Sys2Proof.Machine

/-- A row of `G` is a row of the identity, then a row of `P`. -/
theorem generatorOf_row (P : ParityBlock) (j : Fin 6) :
    (generatorOf P)[j] = unitVec 6 j.val ++ P[j] := by
  simp [generatorOf]

/-- The left block of `G` is the identity. -/
theorem elem_generatorOf_left (P : ParityBlock) (j i : Fin 6) :
    elem (generatorOf P)[j] i = decide (i = j) := by
  rw [generatorOf_row]
  exact (elem_append_left _ _ i.isLt).trans (elem_unitVec j i)

/-- The right block of `G` is `P`. -/
theorem elem_generatorOf_right (P : ParityBlock) (j : Fin 6) (k : Nat) :
    elem (generatorOf P)[j] (6 + k) = elem P[j] k := by
  rw [generatorOf_row]
  exact elem_append_right _ _ k

/-- A column of `P` holds the elements of the rows of `P` at its index. -/
theorem elem_columnOf (P : ParityBlock) (k : Nat) (j : Fin 6) :
    elem (columnOf P k) j = elem P[j] k := by
  rw [columnOf, elem_ofNat_uintOf _ (by simp) (by simp)]
  simp

/-- A row of `H` is a column of `P`, then a row of the identity. -/
theorem parityCheckOf_row (P : ParityBlock) (k : Fin 4) :
    (parityCheckOf P)[k] = columnOf P k.val ++ unitVec 4 k.val := by
  simp [parityCheckOf]

/-- The left block of `H` is the transpose of `P`. -/
theorem elem_parityCheckOf_left (P : ParityBlock) (k : Fin 4) (j : Fin 6) :
    elem (parityCheckOf P)[k] j = elem P[j] k := by
  rw [parityCheckOf_row]
  exact (elem_append_left _ _ j.isLt).trans (elem_columnOf P k j)

/-- The right block of `H` is the identity. -/
theorem elem_parityCheckOf_right (P : ParityBlock) (k m : Fin 4) :
    elem (parityCheckOf P)[k] (6 + m.val) = decide (m = k) := by
  rw [parityCheckOf_row]
  exact (elem_append_right _ _ m.val).trans (elem_unitVec k m)

/-- The upper rows of `Hᵗ` are the rows of `P`. -/
theorem checkRowsOf_upper (P : ParityBlock) (j : Fin 6) : (checkRowsOf P)[j.val] = P[j] :=
  Vector.getElem_append_left j.isLt

/-- The lower rows of `Hᵗ` are the unit vectors. -/
theorem checkRowsOf_lower (P : ParityBlock) (m : Fin 4) :
    (checkRowsOf P)[6 + m.val] = unitVec 4 m := by
  have hpart : (checkRowsOf P)[6 + m.val] =
      (Vector.ofFn fun m : Fin 4 => unitVec 4 m.val)[6 + m.val - 6] :=
    Vector.getElem_append_right (Nat.add_lt_add_left m.isLt 6) (Nat.le_add_right 6 m)
  simpa using hpart

/-- The lower block of `Hᵗ` is the identity. -/
theorem elem_checkRowsOf_lower (P : ParityBlock) (m k : Fin 4) :
    elem (checkRowsOf P)[6 + m.val] k = decide (k = m) := by
  rw [checkRowsOf_lower, elem_unitVec]

/-- `Hᵗ` is the transpose of `H`: above by `P`, below because the identity is symmetric. -/
theorem elem_checkRowsOf_eq_parityCheckOf (P : ParityBlock) (j : Fin 10) (k : Fin 4) :
    elem (checkRowsOf P)[j] k = elem (parityCheckOf P)[k] j := by
  induction j using Fin.addCases (m := 6) (n := 4) with
  | left j =>
    calc elem (checkRowsOf P)[j.val] k
      _ = elem P[j] k := by rw [checkRowsOf_upper]
      _ = elem (parityCheckOf P)[k] j := (elem_parityCheckOf_left P k j).symm
  | right m =>
    calc elem (checkRowsOf P)[6 + m.val] k
      _ = decide (k = m) := elem_checkRowsOf_lower P m k
      _ = decide (m = k) := by simp only [eq_comm]
      _ = elem (parityCheckOf P)[k] (6 + m.val) := (elem_parityCheckOf_right P k m).symm

/-- Settles O1, block by block of G, H and Ht (10_state.md R25). -/
theorem matricesHaveSystematicForm : Obligations.MatricesHaveSystematicForm := by
  intro P
  refine ⟨fun j => ⟨?_, ?_⟩, fun k => ⟨?_, ?_⟩, ?_, ?_, ?_⟩
  · exact elem_generatorOf_left P j
  · exact fun k => elem_generatorOf_right P j k
  · exact elem_parityCheckOf_left P k
  · exact elem_parityCheckOf_right P k
  · exact elem_checkRowsOf_eq_parityCheckOf P
  · exact checkRowsOf_upper P
  · exact elem_checkRowsOf_lower P

end Sys2Proof.Machine
end

section
/-! The decoder: what a code map gives, which words this hardware's maps hold (30_encoding.md R63 to
R69), and EXEC of a word that no map holds. -/

namespace Sys2Proof

/-- Everything a lookup can do: the action of an entry with the pattern, or no entry has it. -/
theorem lookupCode_cases (m : CodeMap) (w : CodeWord) :
    (∃ e ∈ m, e.1 = w ∧ lookupCode m w = .ok e.2) ∨
    ((∀ e ∈ m, e.1 ≠ w) ∧ lookupCode m w = .error .unrecognized) := by
  cases hfind : m.find? fun e => e.1 == w with
  | some e =>
    have hpattern : e.1 = w := by simpa using List.find?_some hfind
    exact .inl ⟨e, List.mem_of_find?_eq_some hfind, hpattern, by rw [lookupCode, hfind]⟩
  | none =>
    have habsent : ∀ e ∈ m, e.1 ≠ w := by simpa using hfind
    exact .inr ⟨habsent, by rw [lookupCode, hfind]⟩

/-- A pattern that no entry has is unrecognized (30_encoding.md R69). -/
theorem lookupCode_of_unmapped {m : CodeMap} {w : CodeWord} (h : ∀ e ∈ m, e.1 ≠ w) :
    lookupCode m w = .error .unrecognized := by
  obtain ⟨e, hmem, hpattern, -⟩ | ⟨-, hlookup⟩ := lookupCode_cases m w
  · exact absurd hpattern (h e hmem)
  · exact hlookup

/-- A pattern that some entry has gives an action. -/
theorem lookupCode_of_mapped {m : CodeMap} {w : CodeWord} (h : w ∈ m.map Prod.fst) :
    ∃ i, lookupCode m w = .ok i := by
  obtain ⟨e, -, -, hlookup⟩ | ⟨habsent, -⟩ := lookupCode_cases m w
  · exact ⟨e.2, hlookup⟩
  · obtain ⟨e, hmem, hpattern⟩ := List.mem_map.mp h
    exact absurd hpattern (habsent e hmem)

/-- In a partial map (00_scope.md R10) the pattern of an entry gives the action of that entry. -/
theorem lookupCode_of_mem {m : CodeMap} (hdistinct : m.distinctPatterns = true)
    {e : CodeWord × Instr} (he : e ∈ m) : lookupCode m e.1 = .ok e.2 := by
  obtain ⟨e', hmem, hpattern, hlookup⟩ | ⟨habsent, -⟩ := lookupCode_cases m e.1
  · have hnodup : (m.map Prod.fst).Nodup := of_decide_eq_true hdistinct
    rwa [List.inj_on_of_nodup_map hnodup hmem he hpattern] at hlookup
  · exact absurd rfl (habsent e he)

/-- A word of class `00` is its literal (30_encoding.md R64). -/
theorem decodeWith_of_operand (opmap charmap : CodeMap) {w : CodeWord}
    (h : classOf w = .operand) : decodeWith opmap charmap w = .ok (.push (w.extractLsb' 0 4)) := by
  simp [decodeWith, h]

/-- A word of class `01` is looked up in `OPMAP` (30_encoding.md R63). -/
theorem decodeWith_of_instruction (opmap charmap : CodeMap) {w : CodeWord}
    (h : classOf w = .instruction) : decodeWith opmap charmap w = lookupCode opmap w := by
  simp [decodeWith, h]

/-- A word of class `1` is looked up in `CHARMAP` (30_encoding.md R63). -/
theorem decodeWith_of_character (opmap charmap : CodeMap) {w : CodeWord}
    (h : classOf w = .character) : decodeWith opmap charmap w = lookupCode charmap w := by
  simp [decodeWith, h]

/-- A word whose class's map has no entry with its pattern is unrecognized (30_encoding.md R69). -/
theorem decodeWith_of_unmapped {opmap charmap : CodeMap} {w : CodeWord}
    (h : (classOf w = .instruction ∧ ∀ e ∈ opmap, e.1 ≠ w) ∨
      (classOf w = .character ∧ ∀ e ∈ charmap, e.1 ≠ w)) :
    decodeWith opmap charmap w = .error .unrecognized := by
  obtain ⟨hclass, habsent⟩ | ⟨hclass, habsent⟩ := h
  · rw [decodeWith_of_instruction _ _ hclass, lookupCode_of_unmapped habsent]
  · rw [decodeWith_of_character _ _ hclass, lookupCode_of_unmapped habsent]

/-- The pattern of an entry of a well-formed `OPMAP` decodes to the action of that entry. -/
theorem decodeWith_of_mem_opmap {opmap : CodeMap} (charmap : CodeMap)
    (hdistinct : opmap.distinctPatterns = true) (hclass : opmap.inClass .instruction = true)
    {e : CodeWord × Instr} (he : e ∈ opmap) : decodeWith opmap charmap e.1 = .ok e.2 := by
  have hinstruction : classOf e.1 = .instruction := eq_of_beq (List.all_eq_true.mp hclass e he)
  rw [decodeWith_of_instruction _ _ hinstruction, lookupCode_of_mem hdistinct he]

/-- This hardware's `OPMAP` holds all 16 words of its class (30_encoding.md R66). -/
theorem mem_opmapReference_of_instruction :
    ∀ w : CodeWord, classOf w = .instruction → w ∈ opmapReference.map Prod.fst := by
  decide

/-- This hardware's `CHARMAP` holds all 32 words of its class (30_encoding.md R67). -/
theorem mem_charmapReference_of_character :
    ∀ w : CodeWord, classOf w = .character → w ∈ charmapReference.map Prod.fst := by
  decide

/-- No word of this hardware is unrecognized: a literal needs no map, and both maps hold every word
of their class. -/
theorem exists_decode_eq_ok (w : CodeWord) : ∃ i, decode w = .ok i := by
  unfold decode
  cases hclass : classOf w with
  | operand => exact ⟨_, decodeWith_of_operand _ _ hclass⟩
  | instruction =>
    rw [decodeWith_of_instruction _ _ hclass]
    exact lookupCode_of_mapped (mem_opmapReference_of_instruction w hclass)
  | character =>
    rw [decodeWith_of_character _ _ hclass]
    exact lookupCode_of_mapped (mem_charmapReference_of_character w hclass)

/-- Settles O12: the 16 patterns and instructions are the two columns of `OPMAP`, a partial map into
its class, so each pattern decodes to the instruction beside it (30_encoding.md R66). -/
theorem knownWordsDecode : Obligations.KnownWordsDecode := by
  have hentry : ∀ e ∈ opmapReference, decode e.1 = .ok e.2 := fun _ =>
    decodeWith_of_mem_opmap charmapReference (by decide) (by decide)
  have hcolumns : (opmapReference.map Prod.fst).map decode =
      (opmapReference.map Prod.snd).map Except.ok := by
    rw [List.map_map, List.map_map]
    exact List.map_congr_left hentry
  exact hcolumns

namespace Machine

/-- EXEC has effect exactly outside the terminal states (41_stack_ops.md R91, R92). -/
theorem canRun_iff_not_terminal (s : State) : CanRun s ↔ s.run.terminal = false := by
  cases hrun : s.run <;> simp [CanRun, RunState.terminal, hrun]

/-- Entry to ERROR is the state the statements call `failed` (60_exceptions.md R156). -/
theorem raiseError_eq_failed (s : State) (c : ErrCause) : raiseError s c = failed s c := rfl

/-- EXEC of a word that does not decode raises UNRECOGNIZED (30_encoding.md R69). -/
theorem execWord_of_unrecognized {s : State} {w : CodeWord} {err : DecodeError} (hrun : CanRun s)
    (hdecode : decodeWith s.cfg.opmap s.cfg.charmap w = .error err) :
    execWord w s = .next (failed s .unrecognized) := by
  rw [execWord, hdecode, ← raiseError_eq_failed]
  exact runWord_of_error ((canRun_iff_not_terminal s).mp hrun) rfl

/-- A step whose EXEC leads to a state also records that state's run state (10_state.md R40). -/
theorem step_exec_of_next {s t : State} {w : CodeWord} {rest : List Transaction}
    (hpending : s.pending = .exec w :: rest) (hexec : execWord w (s.setPending rest) = .next t) :
    step s = .next (t.emit (.execReturned t.run)) := by
  rw [step_of_pending hpending, issue, hexec, returnRunState]

/-- Settles O21: the decoder rejects an unmapped word, its EXEC raises UNRECOGNIZED, and this
hardware's maps leave no word unmapped (30_encoding.md R69). -/
theorem unrecognizedWordRaisesError : Obligations.UnrecognizedWordRaisesError := by
  refine ⟨fun s w rest hrun hpending hunmapped => ?_, exists_decode_eq_ok⟩
  have hexec : execWord w (s.setPending rest) = .next (failed (s.setPending rest) .unrecognized) :=
    execWord_of_unrecognized hrun (decodeWith_of_unmapped hunmapped)
  exact step_exec_of_next hpending hexec

end Machine
end Sys2Proof
end

section
/-! Sums mod 2 (00_scope.md R15): the elements of a vector times a matrix, and the parity of a
concatenation. -/

namespace Sys2Proof

/-- The first summand of a sum mod 2. -/
theorem foldl_xor_cons (b : Bool) (bs : List Bool) :
    (b :: bs).foldl Bool.xor false = (b ^^ bs.foldl Bool.xor false) := by
  rw [List.foldl_cons, Bool.xor_comm false b, List.foldl_assoc]

/-- The sum mod 2 of a concatenation. -/
theorem foldl_xor_append (as bs : List Bool) :
    (as ++ bs).foldl Bool.xor false = (as.foldl Bool.xor false ^^ bs.foldl Bool.xor false) := by
  rw [List.foldl_append, ← List.foldl_assoc (op := Bool.xor), Bool.xor_false]

/-- A sum mod 2 against a row of the identity matrix picks one summand. -/
theorem foldl_xor_map_and_decide {α : Type} [DecidableEq α] (f : α → Bool) (i : α) {l : List α}
    (hnodup : l.Nodup) :
    (l.map fun j => f j && decide (i = j)).foldl Bool.xor false = (f i && decide (i ∈ l)) := by
  induction l with
  | nil => simp
  | cons j l ih =>
    obtain ⟨hj, hl⟩ := List.nodup_cons.mp hnodup
    rw [List.map_cons, foldl_xor_cons, ih hl]
    by_cases hij : i = j
    · subst hij; simp [hj]
    · simp [hij]

/-- The elements of a vector, indexed by `Fin`. -/
theorem elems_eq_map_finRange {n : Nat} (v : BitVec n) :
    elems v = (List.finRange n).map fun i : Fin n => elem v i :=
  List.ext_getElem (by simp) fun i _ _ => by simp [elems]

/-- The elements of a concatenation. -/
theorem elems_append {n m : Nat} (a : BitVec n) (b : BitVec m) :
    elems (a ++ b) = elems a ++ elems b := by
  have hleft : (List.range n).map (elem (a ++ b)) = (List.range n).map (elem a) :=
    List.map_congr_left fun _ hi => elem_append_left a b (List.mem_range.mp hi)
  have hright : (List.range m).map (elem (a ++ b) ∘ (n + ·)) = (List.range m).map (elem b) :=
    List.map_congr_left fun i _ => elem_append_right a b i
  rw [elems, List.range_add, List.map_append, List.map_map, hleft, hright, elems, elems]

/-- The parity of a concatenation. -/
theorem parity_append {n m : Nat} (a : BitVec n) (b : BitVec m) :
    parity (a ++ b) = (parity a ^^ parity b) := by
  rw [parity, elems_append, foldl_xor_append, parity, parity]

/-- The parity of a single bit is the bit. -/
theorem parity_ofBool (b : Bool) : parity (BitVec.ofBool b) = b := by
  cases b <;> rfl

/-- An element of a product of a list of bits with rows, both read as far as both go. -/
theorem elem_rowComb {m : Nat} (bs : List Bool) (rows : List (BitVec m)) (i : Nat) :
    elem (rowComb bs rows) i =
      (List.zipWith (fun b r => b && elem r i) bs rows).foldl Bool.xor false := by
  induction bs generalizing rows with
  | nil => simp [rowComb, elem]
  | cons b bs ih =>
    cases rows with
    | nil => simp [rowComb, elem]
    | cons r rows =>
      have hrow : elem (if b then r else 0#m) i = (b && elem r i) := by
        cases b <;> simp [elem]
      rw [List.zipWith_cons_cons, foldl_xor_cons, ← ih, ← hrow]
      simp [rowComb, elem]

/-- An element of a vector times a matrix, `Σ_j v⟨j⟩ · M[j][i] (mod 2)`. -/
theorem elem_rowComb_elems {n m : Nat} (v : BitVec n) (M : Vector (BitVec m) n) (i : Nat) :
    elem (rowComb (elems v) M.toList) i =
      ((List.finRange n).map fun j : Fin n => elem v j && elem M[j] i).foldl Bool.xor false := by
  have hterms : List.zipWith (fun b r => b && elem r i) (elems v) M.toList =
      (List.finRange n).map fun j : Fin n => elem v j && elem M[j] i :=
    List.ext_getElem (by simp) fun j _ _ => by simp [elems]
  rw [elem_rowComb, hterms]

end Sys2Proof
end

section
/-! The elements and the parity of an encoded word (40_codec.md R79). -/

namespace Sys2Proof.Machine

/-- The codeword is the product with `G`. -/
theorem elem_codewordOf (M : Matrices) (d : DataWord) (i : Nat) :
    elem (codewordOf M d) i =
      ((List.finRange 6).map fun j : Fin 6 => elem d j && elem M.g[j] i).foldl Bool.xor false :=
  elem_rowComb_elems d M.g i

/-- Elements 0 to 9 of a channel word are the codeword. -/
theorem elem_enc_block (M : Matrices) (d : DataWord) {i : Nat} (hi : i < 10) :
    elem (enc M d) i = elem (codewordOf M d) i :=
  elem_append_left _ _ hi

/-- Element 10 of a channel word is the parity of the codeword. -/
theorem elem_enc_last (M : Matrices) (d : DataWord) :
    elem (enc M d) 10 = parity (codewordOf M d) := by
  have hlast : elem (enc M d) (10 + 0) = elem (BitVec.ofBool (parity (codewordOf M d))) 0 :=
    elem_append_right _ _ 0
  simpa [elem] using hlast

/-- Element 10 is the sum mod 2 of elements 0 to 9. -/
theorem elem_enc_last_eq_sum (M : Matrices) (d : DataWord) :
    elem (enc M d) 10 =
      ((List.finRange 10).map fun i : Fin 10 => elem (enc M d) i).foldl Bool.xor false := by
  have hblock : ((List.finRange 10).map fun i : Fin 10 => elem (enc M d) i) =
      (List.finRange 10).map fun i : Fin 10 => elem (codewordOf M d) i :=
    List.map_congr_left fun i _ => elem_enc_block M d i.isLt
  rw [elem_enc_last, hblock, ← elems_eq_map_finRange, parity]

/-- Every channel word has even weight: its last element cancels the parity of the others. -/
theorem parity_enc (M : Matrices) (d : DataWord) : parity (enc M d) = false := by
  rw [enc, parity_append, parity_ofBool, Bool.xor_self]

/-- With `G = [I|P]` the codeword begins with the data word. -/
theorem elem_codewordOf_matricesOf_left (P : ParityBlock) (d : DataWord) (i : Fin 6) :
    elem (codewordOf (matricesOf P) d) i = elem d i := by
  have hrow (j : Fin 6) : elem (matricesOf P).g[j] i = decide (i = j) := elem_generatorOf_left P j i
  simp only [elem_codewordOf, hrow]
  rw [foldl_xor_map_and_decide (fun j : Fin 6 => elem d j) i (List.nodup_finRange 6)]
  simp

/-- With `G = [I|P]` the codeword ends with the product of the data word with `P`. -/
theorem elem_codewordOf_matricesOf_right (P : ParityBlock) (d : DataWord) (k : Nat) :
    elem (codewordOf (matricesOf P) d) (6 + k) =
      ((List.finRange 6).map fun j : Fin 6 => elem d j && elem P[j] k).foldl Bool.xor false := by
  have hrow (j : Fin 6) : elem (matricesOf P).g[j] (6 + k) = elem P[j] k :=
    elem_generatorOf_right P j k
  simp only [elem_codewordOf, hrow]

/-- A step with ENC pending takes it and records the channel word, and nothing else. -/
theorem step_enc {s : State} {d : DataWord} {rest : List Transaction}
    (hpending : s.pending = .enc d :: rest) :
    step s = .next ((s.setPending rest).emit (.encReturned (enc s.codec d))) := by
  rw [step_of_pending hpending, issue, State.setPending_codec]

/-- Settles O4: the step records `enc`, whose elements are the product with `G` and then the parity
that makes the weight even; `[I|P]` copies the data word and adds its product with `P`
(40_codec.md R79). -/
theorem encMultipliesByGenerator : Obligations.EncMultipliesByGenerator := by
  refine ⟨fun s d rest hpending => ⟨enc s.codec d, step_enc hpending, fun i => ?_, ?_, ?_⟩,
    fun P d => ⟨fun i => ?_, fun k => ?_⟩⟩
  · exact (elem_enc_block _ d i.isLt).trans (elem_codewordOf _ d i)
  · exact elem_enc_last_eq_sum _ d
  · exact parity_enc _ d
  · exact (elem_enc_block _ d (by omega)).trans (elem_codewordOf_matricesOf_left P d i)
  · exact (elem_enc_block _ d (by omega)).trans (elem_codewordOf_matricesOf_right P d k)

end Sys2Proof.Machine
end

section
/-! The code words of this hardware: every entry of its two maps decodes to its action, and a
literal to its PUSH (30_encoding.md R64, R66, R67). -/

namespace Sys2Proof

/-- The pattern of an entry of a well-formed `CHARMAP` decodes to the action of that entry. -/
theorem decodeWith_of_mem_charmap (opmap : CodeMap) {charmap : CodeMap}
    (hdistinct : charmap.distinctPatterns = true) (hclass : charmap.inClass .character = true)
    {e : CodeWord × Instr} (he : e ∈ charmap) : decodeWith opmap charmap e.1 = .ok e.2 := by
  have hcharacter : classOf e.1 = .character := eq_of_beq (List.all_eq_true.mp hclass e he)
  rw [decodeWith_of_character _ _ hcharacter, lookupCode_of_mem hdistinct he]

/-- A row of the table of 30_encoding.md R66. -/
theorem decode_of_mem_opmapReference {w : CodeWord} {i : Instr} (h : (w, i) ∈ opmapReference) :
    decode w = .ok i :=
  decodeWith_of_mem_opmap (e := (w, i)) charmapReference (by decide) (by decide) h

/-- A row of the table of 30_encoding.md R67. -/
theorem decode_of_mem_charmapReference {w : CodeWord} {i : Instr} (h : (w, i) ∈ charmapReference) :
    decode w = .ok i :=
  decodeWith_of_mem_charmap (e := (w, i)) opmapReference (by decide) (by decide) h

/-- The word `00nnnn` is the literal `n` (30_encoding.md R64). -/
theorem decode_push (n : BitVec 4) : decode (0b00#2 ++ n) = .ok (.push n) := by
  have hclass : classOf (0b00#2 ++ n) = .operand := Laws.EncodedClass.push n
  have hliteral : (0b00#2 ++ n).extractLsb' 0 4 = n := BitVec.extractLsb'_append_eq_right
  rw [decode, decodeWith_of_operand _ _ hclass, hliteral]

end Sys2Proof
end

section
/-! EXEC in a terminal state (41_stack_ops.md R92), and what leaves one (70_reset_and_hazards.md
R176). -/

namespace Sys2Proof.Machine

/-- The terminal run states are STOPPED and ERROR (00_scope.md R24). -/
theorem RunState.terminal_iff (r : RunState) : r.terminal = true ↔ r = .stopped ∨ r = .error := by
  cases r <;> simp [RunState.terminal]

/-- In a terminal state no instruction has an effect. -/
theorem exec_of_terminal {s : State} (i : Instr) (h : s.run.terminal = true) :
    exec i s = .next s := by
  obtain ⟨act, hframe⟩ := exec_eq_runWord i
  rw [hframe, runWord_of_terminal h]

/-- In a terminal state no word has an effect, recognised or not. -/
theorem execWord_of_terminal {s : State} (w : CodeWord) (h : s.run.terminal = true) :
    execWord w s = .next s := by
  rw [execWord]
  cases decodeWith s.cfg.opmap s.cfg.charmap w with
  | ok i => exact exec_of_terminal i h
  | error err => exact runWord_of_terminal h

/-- In a terminal state every transaction but RESET keeps the run state: an EXEC has no effect, and
the others only return a value (20_memory.md R56). -/
theorem issue_run_of_terminal {s t : State} {tr : Transaction} (h : s.run.terminal = true)
    (hreset : tr ≠ .reset) (hissue : issue tr s = .next t) : t.run = s.run := by
  cases tr with
  | exec w =>
    rw [issue, execWord_of_terminal w h] at hissue
    cases hissue
    rfl
  | reset => exact absurd rfl hreset
  | top | enc d | dec r =>
    cases hissue
    rfl

/-- A step without a transaction keeps the whole state (60_exceptions.md R166). -/
theorem step_of_no_pending {s : State} (h : s.pending = []) : step s = .next s := by
  simp [step, takeTransaction, h]

/-- Only a RESET leaves a terminal state. -/
theorem step_run_of_terminal {s t : State} (h : s.run.terminal = true) (hstep : step s = .next t) :
    t.run = s.run ∨ ∃ rest, s.pending = .reset :: rest := by
  cases hpending : s.pending with
  | nil =>
    rw [step_of_no_pending hpending] at hstep
    cases hstep
    exact .inl rfl
  | cons tr rest =>
    rw [step_of_pending hpending] at hstep
    by_cases hreset : tr = .reset
    · exact .inr ⟨rest, by rw [hreset]⟩
    · exact .inl (issue_run_of_terminal (s := s.setPending rest) h hreset hstep)

/-- Settles O22: in a terminal state every instruction and every word answers the state it is given,
so the step only records the run state, and no transaction but RESET changes that
(41_stack_ops.md R92). -/
theorem terminalStatesAreSticky : Obligations.TerminalStatesAreSticky := by
  simp only [Obligations.TerminalStatesAreSticky, ← RunState.terminal_iff]
  refine ⟨fun i s h => exec_of_terminal i h, fun s w rest h hpending => ?_,
    fun s t h hstep => step_run_of_terminal h hstep⟩
  exact step_exec_of_next hpending (execWord_of_terminal (s := s.setPending rest) w h)

end Sys2Proof.Machine
end

section
/-! The frame of an EXEC that has effect, and what Push and the operand frames do on a given stack
(20_memory.md R48, R49; 41_stack_ops.md R91, R96). -/

namespace Sys2Proof.Machine

/-- An EXEC whose work succeeds. -/
theorem runWord_of_canRun_ok {r : RunState} {act : Act} {s t : State} (hrun : CanRun s)
    (hact : act s = .ok t) : runWord r act s = .next { t with run := r } :=
  runWord_of_ok ((canRun_iff_not_terminal s).mp hrun) hact

/-- An EXEC whose work raises a cause. -/
theorem runWord_of_canRun_error {r : RunState} {act : Act} {s : State} {c : ErrCause}
    (hrun : CanRun s) (hact : act s = .error c) : runWord r act s = .next (failed s c) :=
  runWord_of_error ((canRun_iff_not_terminal s).mp hrun) hact

/-- An EXEC is decided by what its work does on the word start. -/
theorem runWord_congr {r : RunState} {act act' : Act} {s : State} (h : act s = act' s) :
    runWord r act s = runWord r act' s := by
  simp only [runWord, h]

/-- An EXEC without work only sets the run state. -/
theorem runWord_noWork {r : RunState} {s : State} (hrun : CanRun s) :
    runWord r noWork s = .next { s with run := r } :=
  runWord_of_canRun_ok hrun rfl

/-- The test of Push is the equation `|S| = STACK_DEPTH` (20_memory.md R48). -/
theorem stackFull_iff (s : State) : stackFull s = true ↔ Full s := by
  unfold stackFull Full
  cases s.cfg.stackDepth with
  | none => simp
  | some d => simp only [beq_iff_eq, Option.some.injEq, eq_comm (a := d)]

/-- A stack is either full or not. -/
theorem notFull_iff (s : State) : NotFull s ↔ ¬ Full s := by
  refine ⟨fun h hfull => h _ hfull rfl, fun h d hd hlen => h ?_⟩
  rw [Full, hlen, hd]

/-- A stack that is not full has room for a Push. -/
theorem stackFull_of_notFull {s : State} (h : NotFull s) : stackFull s = false := by
  rwa [notFull_iff, ← stackFull_iff, Bool.not_eq_true] at h

/-- A full stack is within its depth. -/
theorem stackFits_of_full {s : State} (h : Full s) : StackFits s := by
  intro d hd
  rw [Full, hd] at h
  exact (Option.some.inj h).ge

/-- A stack shorter than one within its depth has room for a Push. -/
theorem stackFull_setStack_of_lt {s : State} {l : List Cell} (hfits : StackFits s)
    (hlen : l.length < s.stack.length) : stackFull (s.setStack l) = false := by
  refine stackFull_of_notFull fun d hd => ?_
  have hdepth : s.stack.length ≤ d := hfits d hd
  exact (hlen.trans_le hdepth).ne

/-- A Push on a full stack (20_memory.md R48). -/
theorem pushCell_of_full {v : Cell} {s : State} (h : Full s) : pushCell v s = .error .capacity := by
  simp [pushCell, (stackFull_iff s).mpr h]

/-- A Push on a shortened stack succeeds. -/
theorem pushCell_setStack_of_lt {s : State} {l : List Cell} (v : Cell) (hfits : StackFits s)
    (hlen : l.length < s.stack.length) :
    pushCell v (s.setStack l) = .ok (s.setStack (v :: l)) :=
  pushCell_of_room (stackFull_setStack_of_lt hfits hlen)

/-- Setting the stack to what it is. -/
theorem State.setStack_of_eq {s : State} {l : List Cell} (h : s.stack = l) : s.setStack l = s := by
  subst h
  rfl

/-- Pushing the popped cell back gives the state before the Pop. -/
theorem pushCell_popped {s : State} {x : Cell} {rest : List Cell} (hfits : StackFits s)
    (hstack : s.stack = x :: rest) : pushCell x (s.setStack rest) = .ok s := by
  rw [pushCell_setStack_of_lt x hfits (by simp [hstack]), State.setStack_of_eq hstack]

/-- An EXEC that pushes a cell on a stack with room (41_stack_ops.md R97, R98). -/
theorem runWord_pushCell_of_notFull {s : State} (v : Cell) (hrun : CanRun s) (h : NotFull s) :
    runWord .running (pushCell v) s =
      .next { s with stack := v :: s.stack, run := .running } :=
  runWord_of_canRun_ok hrun (pushCell_of_room (stackFull_of_notFull h))

/-- An EXEC that pushes a cell on a full stack (41_stack_ops.md R97, R98). -/
theorem runWord_pushCell_of_full {s : State} (v : Cell) (hrun : CanRun s) (h : Full s) :
    runWord .running (pushCell v) s = .next (failed s .capacity) :=
  runWord_of_canRun_error hrun (pushCell_of_full h)

/-- An EXEC that begins with a Pop, on the empty stack. -/
theorem runWord_withPop_of_nil {r : RunState} {k : Cell → Act} {s : State} (hrun : CanRun s)
    (hstack : s.stack = []) : runWord r (withPop k) s = .next (failed s .underflow) :=
  runWord_of_canRun_error hrun (withPop_of_nil hstack)

/-- The two-operand frame on a stack with two cells (41_stack_ops.md R96). -/
theorem withTwo_of_cons_cons {k : Cell → Cell → Act} {s : State} {x y : Cell} {rest : List Cell}
    (hstack : s.stack = x :: y :: rest) : withTwo k s = k x y (s.setStack rest) := by
  rw [withTwo, withPop_of_cons hstack]
  exact withPop_of_cons rfl

/-- The two-operand frame on a stack with fewer than two cells (41_stack_ops.md R96). -/
theorem withTwo_of_short {k : Cell → Cell → Act} {s : State} (hlen : s.stack.length < 2) :
    withTwo k s = .error .underflow := by
  obtain ⟨-, hact⟩ | ⟨x, y, rest, hstack, -⟩ := withTwo_cases k s
  · exact hact
  · simp [hstack] at hlen

/-- Every instruction whose work is the two-operand frame raises UNDERFLOW below two cells. -/
theorem underflowsBelowTwo_of_withTwo {i : Instr} {r : RunState} {k : Cell → Cell → Act}
    (hexec : ∀ s, exec i s = runWord r (withTwo k) s) : UnderflowsBelowTwo i := by
  intro s hrun hlen
  rw [hexec]
  exact runWord_of_canRun_error hrun (withTwo_of_short hlen)

end Sys2Proof.Machine
end

section
/-! PUSH and the character pushes (41_stack_ops.md R97, R98). -/

namespace Sys2Proof.Machine

/-- The literal of PUSH is zero-extended to a byte (41_stack_ops.md R97). -/
theorem zeroExtend_literal (n : BitVec 4) : n.zeroExtend 8 = BitVec.ofNat 8 n.toNat :=
  BitVec.eq_of_toNat_eq (by simp)

/-- PUSH pushes its literal as an integer. -/
theorem exec_push (n : BitVec 4) (s : State) :
    exec (.push n) s = runWord .running (pushCell (.int (BitVec.ofNat 8 n.toNat))) s := by
  rw [← zeroExtend_literal]
  rfl

/-- Settles O38: the word is a literal, and PUSH is the Push of its value (41_stack_ops.md R97). -/
theorem pushRule : Obligations.PushRule := by
  refine ⟨decode_push, fun n s hrun => ?_⟩
  rw [exec_push]
  exact ⟨runWord_pushCell_of_notFull _ hrun, runWord_pushCell_of_full _ hrun⟩

/-- Every instruction that has a token pushes it as a character (41_stack_ops.md R98). -/
theorem exec_of_token {i : Instr} {c : Token} (h : i.token? = some c) (s : State) :
    exec i s = runWord .running (pushCell (.chr c)) s := by
  cases i <;> cases h <;> rfl

/-- The entries of `CHARMAP` that push a character, with their tokens (30_encoding.md R67). -/
def characterRows : List (CodeWord × Instr × Token) :=
  charmapReference.filterMap fun e => e.2.token?.map fun c => (e.1, e.2, c)

/-- A row is an entry of `CHARMAP` with the token of its action. -/
theorem mem_characterRows {w : CodeWord} {i : Instr} {c : Token} :
    (w, i, c) ∈ characterRows ↔ (w, i) ∈ charmapReference ∧ i.token? = some c := by
  simp only [characterRows, List.mem_filterMap, Option.map_eq_some_iff, Prod.mk.injEq]
  constructor
  · rintro ⟨e, hentry, c, htoken, rfl, rfl, rfl⟩
    exact ⟨hentry, htoken⟩
  · rintro ⟨hentry, htoken⟩
    exact ⟨(w, i), hentry, c, htoken, rfl, rfl, rfl⟩

/-- Settles O39: the rows are those of `CHARMAP`, so each word decodes to its instruction, which is
the Push of its token (41_stack_ops.md R98). -/
theorem characterPushRule : Obligations.CharacterPushRule := by
  intro w i c hrow
  obtain ⟨hentry, htoken⟩ := mem_characterRows.mp hrow
  refine ⟨decode_of_mem_charmapReference hentry, fun s hrun => ?_⟩
  rw [exec_of_token htoken]
  exact ⟨runWord_pushCell_of_notFull _ hrun, runWord_pushCell_of_full _ hrun⟩

end Sys2Proof.Machine
end

section
/-! The stack instructions, the no-operations and STP (41_stack_ops.md R99 to R103). -/

namespace Sys2Proof.Machine

/-- The work of DUP (41_stack_ops.md R101). -/
theorem exec_dup (s : State) :
    exec .dup s = runWord .running (withPop fun x s => (pushCell x s).bind (pushCell x)) s := rfl

/-- The work of DEL (41_stack_ops.md R102). -/
theorem exec_del (s : State) : exec .del s = runWord .running (withPop fun _ => noWork) s := rfl

/-- The work of SWP (41_stack_ops.md R103). -/
theorem exec_swp (s : State) :
    exec .swp s = runWord .running (withTwo fun x y s => (pushCell x s).bind (pushCell y)) s := rfl

/-- On a nonempty stack within its depth, DUP is the Push of the top cell: its Pop and first Push
give the word start back. -/
theorem exec_dup_of_cons {s : State} {x : Cell} {rest : List Cell} (hfits : StackFits s)
    (hstack : s.stack = x :: rest) : exec .dup s = runWord .running (pushCell x) s := by
  rw [exec_dup]
  refine runWord_congr ?_
  rw [withPop_of_cons hstack, pushCell_popped hfits hstack]
  rfl

/-- Settles O42: on the empty stack the Pop of DUP underflows; otherwise DUP is the Push of the top
cell, on a stack with room or on a full one (41_stack_ops.md R101). -/
theorem dupRule : Obligations.DupRule := by
  refine ⟨decode_of_mem_opmapReference (by decide), fun s hrun =>
    ⟨runWord_withPop_of_nil hrun, fun x rest hstack => ⟨fun hfits hroom => ?_, fun hfull => ?_⟩⟩⟩
  · rw [exec_dup_of_cons hfits hstack, runWord_pushCell_of_notFull x hrun hroom, hstack]
  · rw [exec_dup_of_cons (stackFits_of_full hfull) hstack, runWord_pushCell_of_full x hrun hfull]

/-- The two Pushes of SWP have room, since two cells were popped. -/
theorem push_two_popped {s : State} {x y : Cell} {rest : List Cell} (hfits : StackFits s)
    (hstack : s.stack = x :: y :: rest) :
    (pushCell x (s.setStack rest)).bind (pushCell y) = .ok (s.setStack (y :: x :: rest)) := by
  rw [pushCell_setStack_of_lt x hfits (by simp [hstack])]
  exact pushCell_setStack_of_lt y hfits (by simp [hstack])

/-- Settles O44: SWP is a two-operand frame, which underflows below two cells, and pushes the two
cells back in the other order, whatever their kinds (41_stack_ops.md R103). -/
theorem swpRule : Obligations.SwpRule := by
  refine ⟨decode_of_mem_opmapReference (by decide), underflowsBelowTwo_of_withTwo exec_swp,
    fun s x y rest hrun hfits hstack => ?_⟩
  rw [exec_swp]
  exact runWord_of_canRun_ok (t := s.setStack (y :: x :: rest)) hrun
    ((withTwo_of_cons_cons hstack).trans (push_two_popped hfits hstack))

/-- Settles O40: the four words stand in `CHARMAP`, and a no-operation has no work
(41_stack_ops.md R99). -/
theorem nopRule : Obligations.NopRule := by
  refine ⟨decode_of_mem_charmapReference (by decide), decode_of_mem_charmapReference (by decide),
    decode_of_mem_charmapReference (by decide), decode_of_mem_charmapReference (by decide),
    fun s hrun => ?_⟩
  exact ⟨runWord_noWork hrun, runWord_noWork hrun, runWord_noWork hrun, runWord_noWork hrun⟩

/-- Settles O41: STP has no work and leaves STOPPED, a terminal state (41_stack_ops.md R100). -/
theorem stopRule : Obligations.StopRule :=
  ⟨decode_of_mem_opmapReference (by decide), fun _ hrun =>
    ⟨runWord_noWork hrun, fun i => exec_of_terminal i rfl⟩⟩

/-- Settles O43: DEL is one Pop and no further work (41_stack_ops.md R102). -/
theorem delRule : Obligations.DelRule := by
  refine ⟨decode_of_mem_opmapReference (by decide), fun s hrun =>
    ⟨runWord_withPop_of_nil hrun, fun x rest hstack => ?_⟩⟩
  rw [exec_del]
  exact runWord_of_canRun_ok (t := s.setStack rest) hrun (withPop_of_cons hstack)

end Sys2Proof.Machine
end

section
/-! The frame of two integer operands and the writing of a result (41_stack_ops.md R96;
42_arithmetic.md R111 to R113). -/

namespace Sys2Proof.Machine

/-- The two-integer frame on two integers. -/
theorem withTwoInts_of_ints {k : Byte → Byte → Act} {s : State} {x y : Byte} {rest : List Cell}
    (hstack : s.stack = .int x :: .int y :: rest) :
    withTwoInts k s = k x y (s.setStack rest) :=
  withTwo_of_cons_cons hstack

/-- The two-integer frame raises TYPE when one of the two cells is a character, whatever the other
is (42_arithmetic.md R113). -/
theorem withTwoInts_of_chr {k : Byte → Byte → Act} {s : State} {x y : Cell} {rest : List Cell}
    (hstack : s.stack = x :: y :: rest) (hchr : (∃ c, x = .chr c) ∨ (∃ c, y = .chr c)) :
    withTwoInts k s = .error .type := by
  rw [withTwoInts, withTwo_of_cons_cons hstack]
  obtain ⟨c, rfl⟩ | ⟨c, rfl⟩ := hchr
  · cases y <;> rfl
  · cases x <;> rfl

/-- Every instruction whose work is the two-integer frame raises UNDERFLOW below two cells. -/
theorem underflowsBelowTwo_of_withTwoInts {i : Instr} {r : RunState} {k : Byte → Byte → Act}
    (hexec : ∀ s, exec i s = runWord r (withTwoInts k) s) : UnderflowsBelowTwo i :=
  underflowsBelowTwo_of_withTwo hexec

/-- Every instruction whose work is the two-integer frame raises TYPE on a character. -/
theorem typeErrorOnCharacter_of_withTwoInts {i : Instr} {r : RunState} {k : Byte → Byte → Act}
    (hexec : ∀ s, exec i s = runWord r (withTwoInts k) s) : TypeErrorOnCharacter i := by
  intro s x y rest hrun hstack hchr
  rw [hexec]
  exact runWord_of_canRun_error hrun (withTwoInts_of_chr hstack hchr)

/-- A result has room on a shortened stack, so no arithmetic instruction raises CAPACITY. -/
theorem writeResult_setStack_of_lt {s : State} {l : List Cell} (t : Int) (hfits : StackFits s)
    (hlen : l.length < s.stack.length) :
    writeResult t (s.setStack l) =
      .ok ((s.setOvf (overflows t)).setStack (.int (truncate t) :: l)) := by
  obtain ⟨hfull, -⟩ | ⟨-, hwrite⟩ := writeResult_cases t (s.setStack l)
  · rw [stackFull_setStack_of_lt hfits hlen] at hfull
    cases hfull
  · exact hwrite

/-- The pushed value of a true result is its residue mod 256 (42_arithmetic.md R111). -/
theorem truncate_eq_emod (t : Int) : truncate t = BitVec.ofInt 8 (t % 256) :=
  BitVec.eq_of_toInt_eq (by simpa [truncate] using (Int.emod_bmod t 256).symm)

/-- The pushed value of a natural true result. -/
theorem truncate_natCast (n : Nat) : truncate (n : Int) = BitVec.ofNat 8 (n % 256) :=
  BitVec.eq_of_toNat_eq (by simp [truncate])

/-- A natural true result overflows only upwards (42_arithmetic.md R112). -/
theorem overflows_natCast (n : Nat) : overflows (n : Int) = decide (255 < n) :=
  decide_eq_decide.mpr (by omega)

/-- A true result no larger than a byte is pushed as it is. -/
theorem truncate_of_le_byte {n : Nat} {y : Byte} (h : n ≤ y.toNat) :
    truncate (n : Int) = BitVec.ofNat 8 n := by
  rw [truncate_natCast, Nat.mod_eq_of_lt (h.trans_lt y.isLt)]

/-- A true result no larger than a byte clears the flag. -/
theorem overflows_of_le_byte {n : Nat} {y : Byte} (h : n ≤ y.toNat) :
    overflows (n : Int) = false := by
  rw [overflows_natCast]
  exact decide_eq_false (by omega)

end Sys2Proof.Machine
end

section
/-! The arithmetic and shift instructions whose true result is defined for all operands
(42_arithmetic.md R114, R115, R116, R118, R120, R121). -/

namespace Sys2Proof.Machine

/-- The work of an arithmetic instruction is the two-integer frame around writing its result. -/
theorem arith_eq_runWord (t : Byte → Byte → Int) (s : State) :
    arith t s = runWord .running (withTwoInts fun x y => writeResult (t y x)) s := rfl

theorem exec_add (s : State) : exec .add s = arith trueSum s := rfl
theorem exec_sub (s : State) : exec .sub s = arith trueDifference s := rfl
theorem exec_mul (s : State) : exec .mul s = arith trueProduct s := rfl
theorem exec_exp (s : State) : exec .exp s = arith truePower s := rfl
theorem exec_shl (s : State) : exec .shl s = arith trueShiftLeft s := rfl
theorem exec_shr (s : State) : exec .shr s = arith trueShiftRight s := rfl

section
variable {i : Instr} {t : Byte → Byte → Int} (hexec : ∀ s, exec i s = arith t s)
include hexec

/-- Below two cells an arithmetic instruction raises UNDERFLOW. -/
theorem underflowsBelowTwo_of_arith : UnderflowsBelowTwo i :=
  underflowsBelowTwo_of_withTwoInts fun s => (hexec s).trans (arith_eq_runWord t s)

/-- On a character an arithmetic instruction raises TYPE. -/
theorem typeErrorOnCharacter_of_arith : TypeErrorOnCharacter i :=
  typeErrorOnCharacter_of_withTwoInts fun s => (hexec s).trans (arith_eq_runWord t s)

/-- On two integers an arithmetic instruction writes its true result (42_arithmetic.md R111,
R112). -/
theorem exec_of_arith {s : State} {x y : Byte} {rest : List Cell} (hrun : CanRun s)
    (hfits : StackFits s) (hstack : s.stack = .int x :: .int y :: rest) :
    exec i s = .next (computed s rest (truncate (t y x)) (overflows (t y x))) := by
  have hroom : rest.length < s.stack.length := by simp [hstack]
  have hwrite : withTwoInts (fun x y => writeResult (t y x)) s =
      writeResult (t y x) (s.setStack rest) := withTwoInts_of_ints hstack
  rw [hexec, arith_eq_runWord]
  exact runWord_of_canRun_ok hrun
    (hwrite.trans (writeResult_setStack_of_lt (t y x) hfits hroom))

/-- On two integers whose true result is a natural number, the value is that number mod 256, and the
flag says whether it exceeds 255. -/
theorem exec_of_arith_natural {s : State} {x y : Byte} {rest : List Cell} {n : Nat}
    (hresult : t y x = n) (hrun : CanRun s) (hfits : StackFits s)
    (hstack : s.stack = .int x :: .int y :: rest) :
    exec i s = .next (computed s rest (BitVec.ofNat 8 (n % 256)) (decide (255 < n))) := by
  rw [exec_of_arith hexec hrun hfits hstack, hresult, truncate_natCast, overflows_natCast]

end

/-- The true result of ADD is the sum of natural numbers. -/
theorem trueSum_eq_natCast (y x : Byte) : trueSum y x = (y.toNat + x.toNat : Nat) :=
  (Int.natCast_add _ _).symm

/-- The true result of MUL is the product of natural numbers. -/
theorem trueProduct_eq_natCast (y x : Byte) : trueProduct y x = (y.toNat * x.toNat : Nat) :=
  (Int.natCast_mul _ _).symm

/-- The difference of two bytes overflows only downwards (42_arithmetic.md R115). -/
theorem overflows_trueDifference (y x : Byte) :
    overflows (trueDifference y x) = decide (y.toNat < x.toNat) := by
  unfold trueDifference
  exact decide_eq_decide.mpr (by omega)

/-- Settles O45: the true result is the natural sum (42_arithmetic.md R114). -/
theorem addRule : Obligations.AddRule :=
  ⟨decode_of_mem_opmapReference (by decide), underflowsBelowTwo_of_arith exec_add,
    typeErrorOnCharacter_of_arith exec_add, fun _ x y _ =>
      exec_of_arith_natural exec_add (trueSum_eq_natCast y x)⟩

/-- Settles O46: the true result may be negative, and then its residue is pushed and the flag set
(42_arithmetic.md R115). -/
theorem subRule : Obligations.SubRule := by
  refine ⟨decode_of_mem_opmapReference (by decide), underflowsBelowTwo_of_arith exec_sub,
    typeErrorOnCharacter_of_arith exec_sub, fun s x y rest hrun hfits hstack => ?_⟩
  rw [exec_of_arith exec_sub hrun hfits hstack, truncate_eq_emod, overflows_trueDifference,
    trueDifference]

/-- Settles O47: the true result is the natural product (42_arithmetic.md R116). -/
theorem mulRule : Obligations.MulRule :=
  ⟨decode_of_mem_opmapReference (by decide), underflowsBelowTwo_of_arith exec_mul,
    typeErrorOnCharacter_of_arith exec_mul, fun _ x y _ =>
      exec_of_arith_natural exec_mul (trueProduct_eq_natCast y x)⟩

/-- Settles O48: the true result is the natural power, with `0 ^ 0 = 1` as in `Nat`
(42_arithmetic.md R118). -/
theorem expRule : Obligations.ExpRule :=
  ⟨decode_of_mem_opmapReference (by decide), underflowsBelowTwo_of_arith exec_exp,
    typeErrorOnCharacter_of_arith exec_exp, fun _ _ _ _ => exec_of_arith_natural exec_exp rfl⟩

/-- Settles O49: the true result is the product with a power of two, whose exponent is not masked
(42_arithmetic.md R120). -/
theorem shlRule : Obligations.ShlRule :=
  ⟨decode_of_mem_opmapReference (by decide), underflowsBelowTwo_of_arith exec_shl,
    typeErrorOnCharacter_of_arith exec_shl, fun _ _ _ _ => exec_of_arith_natural exec_shl rfl⟩

/-- Settles O50: a quotient of `y` is no larger than `y`, so it is pushed as it is and the flag is
cleared (42_arithmetic.md R121). -/
theorem shrRule : Obligations.ShrRule := by
  refine ⟨decode_of_mem_opmapReference (by decide), underflowsBelowTwo_of_arith exec_shr,
    typeErrorOnCharacter_of_arith exec_shr, fun s x y rest hrun hfits hstack => ?_⟩
  have hle : y.toNat / 2 ^ x.toNat ≤ y.toNat := Nat.div_le_self _ _
  rw [exec_of_arith exec_shr hrun hfits hstack, trueShiftRight, truncate_of_le_byte hle,
    overflows_of_le_byte hle]

end Sys2Proof.Machine
end

section
/-! The two instructions that divide by the top cell (42_arithmetic.md R117, R119). -/

namespace Sys2Proof.Machine

/-- The work of DIV and MOD on their two operands: the divisor is checked, then the result
written. -/
def divisorWork (t : Byte → Byte → Int) (x y : Byte) : Act := fun s =>
  if x = 0#8 then .error .divZero else writeResult (t y x) s

/-- The work of a dividing instruction is the two-integer frame around the checked division. -/
theorem arithDivisor_eq_runWord (t : Byte → Byte → Int) (s : State) :
    arithDivisor t s = runWord .running (withTwoInts (divisorWork t)) s := rfl

theorem exec_div (s : State) : exec .div s = arithDivisor trueQuotient s := rfl
theorem exec_mod (s : State) : exec .mod s = arithDivisor trueRemainder s := rfl

section
variable {i : Instr} {t : Byte → Byte → Int} (hexec : ∀ s, exec i s = arithDivisor t s)
include hexec

/-- Below two cells a dividing instruction raises UNDERFLOW. -/
theorem underflowsBelowTwo_of_arithDivisor : UnderflowsBelowTwo i :=
  underflowsBelowTwo_of_withTwoInts fun s => (hexec s).trans (arithDivisor_eq_runWord t s)

/-- On a character a dividing instruction raises TYPE, and not DIVZERO, since the kinds are checked
first. -/
theorem typeErrorOnCharacter_of_arithDivisor : TypeErrorOnCharacter i :=
  typeErrorOnCharacter_of_withTwoInts fun s => (hexec s).trans (arithDivisor_eq_runWord t s)

/-- On the divisor 0 a dividing instruction raises DIVZERO. -/
theorem exec_of_arithDivisor_zero {s : State} {x y : Byte} {rest : List Cell} (hrun : CanRun s)
    (hstack : s.stack = .int x :: .int y :: rest) (hzero : x = 0#8) :
    exec i s = .next (failed s .divZero) := by
  have hwork : withTwoInts (divisorWork t) s = .error .divZero :=
    (withTwoInts_of_ints hstack).trans (if_pos hzero)
  rw [hexec, arithDivisor_eq_runWord, runWord_of_canRun_error hrun hwork]

/-- On a nonzero divisor, a dividing instruction whose result is no larger than the dividend pushes
it as it is and clears the flag. -/
theorem exec_of_arithDivisor_le {s : State} {x y : Byte} {rest : List Cell} {n : Nat}
    (hresult : t y x = n) (hle : n ≤ y.toNat) (hrun : CanRun s)
    (hstack : s.stack = .int x :: .int y :: rest) (hne : x ≠ 0#8) (hfits : StackFits s) :
    exec i s = .next (computed s rest (BitVec.ofNat 8 n) false) := by
  have hdivide : withTwoInts (divisorWork t) s = writeResult (t y x) (s.setStack rest) :=
    (withTwoInts_of_ints hstack).trans (if_neg hne)
  have hroom : rest.length < s.stack.length := by simp [hstack]
  rw [hexec, arithDivisor_eq_runWord, ← truncate_of_le_byte hle, ← overflows_of_le_byte hle,
    ← hresult]
  exact runWord_of_canRun_ok hrun
    (hdivide.trans (writeResult_setStack_of_lt (t y x) hfits hroom))

end

/-- Settles O51: a quotient is no larger than the dividend (42_arithmetic.md R117). -/
theorem divRule : Obligations.DivRule :=
  ⟨decode_of_mem_opmapReference (by decide), underflowsBelowTwo_of_arithDivisor exec_div,
    typeErrorOnCharacter_of_arithDivisor exec_div, fun _ _ _ _ hrun hstack =>
      ⟨exec_of_arithDivisor_zero exec_div hrun hstack,
        exec_of_arithDivisor_le exec_div rfl (Nat.div_le_self _ _) hrun hstack⟩⟩

/-- Settles O52: a remainder is no larger than the dividend (42_arithmetic.md R119). -/
theorem modRule : Obligations.ModRule :=
  ⟨decode_of_mem_opmapReference (by decide), underflowsBelowTwo_of_arithDivisor exec_mod,
    typeErrorOnCharacter_of_arithDivisor exec_mod, fun _ _ _ _ hrun hstack =>
      ⟨exec_of_arithDivisor_zero exec_mod hrun hstack,
        exec_of_arithDivisor_le exec_mod rfl (Nat.mod_le _ _) hrun hstack⟩⟩

end Sys2Proof.Machine
end

section
/-! What the operand frames of conversion and logic do on given cells, and the push of a result in
the place of its operands (41_stack_ops.md R95, R96; 43_logic_convert.md R131, R132). -/

namespace Sys2Proof

/-- The tokens that are hex digits, with their values (43_logic_convert.md R131). -/
def hexDigits : List (Token × Nat) :=
  [(.A, 10), (.B, 11), (.C, 12), (.D, 13), (.E, 14), (.F, 15)]

/-- A hex digit has its value. -/
theorem Token.hexval_of_mem_hexDigits {c : Token} {n : Nat} (h : (c, n) ∈ hexDigits) :
    c.hexval = some n := by
  have hall : ∀ e ∈ hexDigits, e.1.hexval = some e.2 := by decide
  exact hall (c, n) h

/-- A token that is no hex digit has no value. -/
theorem Token.hexval_of_not_mem_hexDigits {c : Token} (h : c ∉ hexDigits.map Prod.fst) :
    c.hexval = none := by
  cases c with
  | A | B | C | D | E | F => exact absurd (by decide) h
  | _ => rfl

namespace Machine

/-- A cell that is no hex-digit character has no hex value: an integer never has one. -/
theorem Cell.hexval_of_not_mem_hexDigits {v : Cell}
    (h : v ∉ (hexDigits.map Prod.fst).map Cell.chr) : v.hexval = none := by
  cases v with
  | int u => rfl
  | chr c => exact Token.hexval_of_not_mem_hexDigits fun hc => h (List.mem_map_of_mem hc)

/-- The two-digit frame on two hex-digit characters. -/
theorem withTwoDigits_of_hexval {k : Nat → Nat → Act} {s : State} {x y : Cell} {a b : Nat}
    {rest : List Cell} (hstack : s.stack = x :: y :: rest) (hx : x.hexval = some a)
    (hy : y.hexval = some b) : withTwoDigits k s = k a b (s.setStack rest) := by
  rw [withTwoDigits, withTwo_of_cons_cons hstack, onDigits, hx, hy]

/-- The two-digit frame raises TYPE when one of the two cells has no hex value, whatever the other
is. -/
theorem withTwoDigits_of_hexval_none {k : Nat → Nat → Act} {s : State} {x y : Cell}
    {rest : List Cell} (hstack : s.stack = x :: y :: rest)
    (hnone : x.hexval = none ∨ y.hexval = none) : withTwoDigits k s = .error .type := by
  rw [withTwoDigits, withTwo_of_cons_cons hstack, onDigits]
  obtain hx | hy := hnone
  · rw [hx]
    cases y.hexval <;> rfl
  · rw [hy]
    cases x.hexval <;> rfl

/-- An EXEC that replaces its operands by one cell never meets a full stack. -/
theorem runWord_of_pushCell_setStack {act : Act} {s : State} {v : Cell} {l : List Cell}
    (hrun : CanRun s) (hfits : StackFits s) (hlen : l.length < s.stack.length)
    (hact : act s = pushCell v (s.setStack l)) :
    runWord .running act s = .next { s with stack := v :: l, run := .running } :=
  runWord_of_canRun_ok hrun (hact.trans (pushCell_setStack_of_lt v hfits hlen))

/-- An instruction that pushes a function of its two integers, and leaves the flag. -/
theorem exec_of_withTwoInts_pushCell {i : Instr} {f : Byte → Byte → Byte}
    (hexec : ∀ s, exec i s = runWord .running (withTwoInts fun x y => pushCell (.int (f y x))) s)
    {s : State} {x y : Byte} {rest : List Cell} (hrun : CanRun s) (hfits : StackFits s)
    (hstack : s.stack = .int x :: .int y :: rest) :
    exec i s = .next { s with stack := .int (f y x) :: rest, run := .running } := by
  rw [hexec]
  exact runWord_of_pushCell_setStack hrun hfits (by simp [hstack]) (withTwoInts_of_ints hstack)

end Machine
end Sys2Proof
end

section
/-! HEX, IEQ, NOT and XOR (43_logic_convert.md R132 to R135). -/

namespace Sys2Proof.Machine

/-- The work of HEX (43_logic_convert.md R132). -/
theorem exec_hex (s : State) :
    exec .hex s = runWord .running
      (withTwoDigits fun x y => pushCell (.int (BitVec.ofNat 8 (16 * y + x)))) s := rfl

/-- The work of IEQ (43_logic_convert.md R133). -/
theorem exec_ieq (s : State) :
    exec .ieq s = runWord .running
      (withTwoInts fun x y => pushCell (.int (if y = x then 1#8 else 0#8))) s := rfl

/-- The work of NOT (43_logic_convert.md R134). -/
theorem exec_not (s : State) :
    exec .not s = runWord .running (withOneInt fun x => pushCell (.int (~~~x))) s := rfl

/-- The work of XOR (43_logic_convert.md R135). -/
theorem exec_xor (s : State) :
    exec .xor s = runWord .running (withTwoInts fun x y => pushCell (.int (y ^^^ x))) s := rfl

/-- The one's complement of a byte is its distance from 255 (43_logic_convert.md R134). -/
theorem complement_eq_ofNat (x : Byte) : ~~~x = BitVec.ofNat 8 (255 - x.toNat) := by
  have hlt : 255 - x.toNat < 2 ^ 8 := by omega
  refine BitVec.eq_of_toNat_eq ?_
  rw [BitVec.toNat_not, BitVec.toNat_ofNat, Nat.mod_eq_of_lt hlt]

/-- Settles O53: two cells with hex values are replaced by their combination, and a cell outside A
to F, which has none, raises TYPE (43_logic_convert.md R132). -/
theorem hexRule : Obligations.HexRule := by
  refine ⟨decode_of_mem_opmapReference (by decide), underflowsBelowTwo_of_withTwo exec_hex,
    fun s x y a b rest hrun hfits hstack hx hy => ?_, fun s x y rest hrun hstack hcell => ?_⟩
  · have hxval : (Cell.chr x).hexval = some a := Token.hexval_of_mem_hexDigits hx
    have hyval : (Cell.chr y).hexval = some b := Token.hexval_of_mem_hexDigits hy
    rw [exec_hex]
    exact runWord_of_pushCell_setStack hrun hfits (by simp [hstack])
      (withTwoDigits_of_hexval hstack hxval hyval)
  · have hnone : x.hexval = none ∨ y.hexval = none :=
      hcell.imp Cell.hexval_of_not_mem_hexDigits Cell.hexval_of_not_mem_hexDigits
    rw [exec_hex]
    exact runWord_of_canRun_error hrun (withTwoDigits_of_hexval_none hstack hnone)

/-- Settles O54: IEQ pushes a function of two integers, which is 1 or 0 as they are equal or not
(43_logic_convert.md R133). -/
theorem ieqRule : Obligations.IeqRule := by
  refine ⟨decode_of_mem_opmapReference (by decide), underflowsBelowTwo_of_withTwoInts exec_ieq,
    typeErrorOnCharacter_of_withTwoInts exec_ieq, fun s x y rest hrun hfits hstack => ?_⟩
  have hpush : exec .ieq s = .next
      { s with stack := .int (if y = x then 1#8 else 0#8) :: rest, run := .running } :=
    exec_of_withTwoInts_pushCell exec_ieq hrun hfits hstack
  refine ⟨fun heq => ?_, fun hne => ?_⟩
  · rw [hpush, if_pos heq.symm]
  · rw [hpush, if_neg hne.symm]

/-- Settles O55: NOT is the one-integer frame around the Push of the complement
(43_logic_convert.md R134). -/
theorem notRule : Obligations.NotRule := by
  refine ⟨decode_of_mem_opmapReference (by decide), fun s hrun =>
    ⟨runWord_withPop_of_nil hrun, fun c rest hstack => ?_, fun x rest hfits hstack => ?_⟩⟩
  · rw [exec_not]
    exact runWord_of_canRun_error hrun (withPop_of_cons hstack)
  · rw [exec_not, ← complement_eq_ofNat]
    exact runWord_of_pushCell_setStack hrun hfits (by simp [hstack]) (withPop_of_cons hstack)

/-- Settles O56: XOR pushes the exclusive or of its two integers, whose bits are those of the
statement (43_logic_convert.md R135). -/
theorem xorRule : Obligations.XorRule :=
  ⟨decode_of_mem_opmapReference (by decide), underflowsBelowTwo_of_withTwoInts exec_xor,
    typeErrorOnCharacter_of_withTwoInts exec_xor, fun _ x y _ hrun hfits hstack =>
      ⟨y ^^^ x, fun _ => BitVec.getLsbD_xor,
        exec_of_withTwoInts_pushCell exec_xor hrun hfits hstack⟩⟩

end Sys2Proof.Machine
end

section
/-! The tokens by their place in the token set: the 26 letters, `A` first, and SPACE after them
(30_encoding.md R67; 10_state.md R36). -/

namespace Sys2Proof

/-- The first 26 tokens stand for the 26 consecutive characters that begin with `A`. -/
theorem Token.map_char_letters :
    (Token.all.take 26).map Token.char = (List.range' 65 26).map Char.ofNat := by decide

/-- The `k`-th token stands for the `k`-th capital letter (44_speak_top.md R144). -/
theorem Token.char_of_getElem?_all {k : Nat} {c : Token} (hk : k < 26)
    (hc : Token.all[k]? = some c) : c.char = Char.ofNat (65 + k) := by
  have hletter : ((Token.all.take 26).map Token.char)[k]? = some c.char := by
    rw [List.getElem?_map, List.getElem?_take_of_lt hk, hc]
    rfl
  rw [Token.map_char_letters, List.getElem?_map, List.getElem?_range' hk] at hletter
  simpa using hletter.symm

/-- Below 26 there is a token. -/
theorem Token.exists_getElem?_all {k : Nat} (hk : k < 26) : ∃ c, Token.all[k]? = some c :=
  ⟨_, List.getElem?_eq_getElem (hk.trans (by decide : 26 < Token.all.length))⟩

/-- Every token but SPACE stands among the first 26. -/
theorem Token.exists_index_of_ne_space {c : Token} (hc : c ≠ .SPACE) :
    ∃ k < 26, Token.all[k]? = some c := by
  have hmem : c ∈ Token.all := by cases c <;> decide
  obtain ⟨k, hk⟩ := List.mem_iff_getElem?.mp hmem
  obtain ⟨hlt, -⟩ := List.getElem?_eq_some_iff.mp hk
  have hlast : k ≠ 26 := by
    rintro rfl
    exact hc (Option.some.inj hk).symm
  have hlength : Token.all.length = 27 := rfl
  exact ⟨k, by omega, hk⟩

/-- The payload of the `k`-th letter is its ASCII code (10_state.md R36). -/
theorem Token.ascii_of_getElem?_all {k : Nat} {c : Token} (hk : k < 26)
    (hc : Token.all[k]? = some c) : c.ascii = BitVec.ofNat 8 (0x41 + k) := by
  have hvalid : (65 + k).isValidChar := .inl (by omega)
  rw [Token.ascii, Token.char_of_getElem?_all hk hc, Char.toNat_ofNat, if_pos hvalid]

end Sys2Proof
end

section
/-! The text of a cell (44_speak_top.md R144). -/

namespace Sys2Proof.Machine

/-- The model's digit of a number below 10 is the library's. -/
theorem digitChar_eq {n : Nat} (h : n < 10) : digitChar n = Nat.digitChar n := by
  have hall : ∀ k : Fin 10, digitChar k = Nat.digitChar k := by decide
  exact hall ⟨n, h⟩

/-- The decimal numeral of a byte is the library's base-10 numeral: one, two or three digits as the
byte is below 10, below 100 or not. -/
theorem decimal_eq_toDigits (u : Byte) : decimal u = Nat.toDigits 10 u.toNat := by
  have hlt : u.toNat < 256 := u.isLt
  have hmod (n : Nat) : digitChar (n % 10) = Nat.digitChar (n % 10) := digitChar_eq (by omega)
  rw [decimal]
  split_ifs with hone htwo
  · rw [Nat.toDigits_of_lt_base hone, digitChar_eq hone]
  · rw [Nat.toDigits_of_base_le (by decide) (by omega), Nat.toDigits_of_lt_base (by omega),
      hmod, digitChar_eq (by omega), List.singleton_append]
  · have hhundreds : u.toNat / 10 / 10 = u.toNat / 100 := Nat.div_div_eq_div_mul _ 10 10
    rw [Nat.toDigits_of_base_le (by decide) (by omega),
      Nat.toDigits_of_base_le (by decide) (by omega), hhundreds,
      Nat.toDigits_of_lt_base (by omega), hmod, hmod, digitChar_eq (by omega)]
    rfl

/-- Settles O58: the numeral of an integer is the library's, and a letter's text is its character,
found by its place in the token set (44_speak_top.md R144). -/
theorem textFormRule : Obligations.TextFormRule := by
  refine ⟨decimal_eq_toDigits, fun k hk => ?_, rfl⟩
  obtain ⟨c, hc⟩ := Token.exists_getElem?_all hk
  exact ⟨c, hc, congrArg (fun x => [x]) (Token.char_of_getElem?_all hk hc)⟩

end Sys2Proof.Machine
end

section
/-! SPEAK (44_speak_top.md R146). -/

namespace Sys2Proof.Machine

/-- The work of SPEAK on its count: the counted cells are collected, then announced. -/
def speakWork (n : Byte) : Act := fun s =>
  match collect n.toNat s.stack with
  | none => .error .underflow
  | some (t, rest) => .ok (announce t (s.setStack rest))

/-- SPEAK is the one-integer frame around its work. -/
theorem exec_speak (s : State) :
    exec .speak s = runWord .running (withOneInt speakWork) s := rfl

/-- With fewer cells than counted the work raises UNDERFLOW, and nothing is announced. -/
theorem speakWork_of_short {n : Byte} {s : State} (h : s.stack.length < n.toNat) :
    speakWork n s = .error .underflow := by
  rw [speakWork, collect_of_short h]

/-- The counted cells are removed, and their texts announced as one text, that of the first popped
first. -/
theorem speakWork_of_append {n : Byte} {s : State} {vs below : List Cell}
    (hstack : s.stack = vs ++ below) (hlen : vs.length = n.toNat) :
    speakWork n s = .ok (announce (vs.flatMap Cell.text) (s.setStack below)) := by
  rw [speakWork, hstack, ← hlen, collect_append, List.flatMap_def]

/-- Settles O57: the count is popped by the one-integer frame, which raises UNDERFLOW on the empty
stack and TYPE on a character; then the counted cells either run short or are announced
(44_speak_top.md R146). -/
theorem speakRule : Obligations.SpeakRule := by
  refine ⟨decode_of_mem_charmapReference (by decide), fun s hrun => ?_⟩
  simp only [exec_speak]
  refine ⟨runWord_withPop_of_nil hrun, fun c rest hstack => ?_, fun n rest hstack hshort => ?_,
    fun n vs below hstack hlen => ?_⟩
  · exact runWord_of_canRun_error hrun (withPop_of_cons hstack)
  · have hcount : withOneInt speakWork s = speakWork n (s.setStack rest) := withPop_of_cons hstack
    exact runWord_of_canRun_error hrun (hcount.trans (speakWork_of_short hshort))
  · have hcount : withOneInt speakWork s = speakWork n (s.setStack (vs ++ below)) :=
      withPop_of_cons hstack
    exact runWord_of_canRun_ok hrun (hcount.trans (speakWork_of_append rfl hlen))

end Sys2Proof.Machine
end

section
/-! TOP (44_speak_top.md R147, R148). -/

namespace Sys2Proof.Machine

/-- A step with TOP pending takes it and records the view, and nothing else. -/
theorem step_top {s : State} {rest : List Transaction} (hpending : s.pending = .top :: rest) :
    step s = .next ((s.setPending rest).emit (.topReturned (topView s))) := by
  rw [step_of_pending hpending]
  rfl

/-- The view of the empty stack. -/
theorem topView_of_nil {s : State} (hstack : s.stack = []) : topView s = .none := by
  rw [topView, topCell, hstack, List.head?_nil]

/-- The view of a stack with a cell is that of its top cell. -/
theorem topView_of_cons {s : State} {v : Cell} {below : List Cell} (hstack : s.stack = v :: below) :
    topView s = v.view := by
  rw [topView, topCell, hstack, List.head?_cons]

/-- The view of a letter is the letter. -/
theorem Cell.view_chr_of_ne_space {c : Token} (hc : c ≠ .SPACE) : (Cell.chr c).view = .char c := by
  cases c with
  | SPACE => exact absurd rfl hc
  | _ => rfl

/-- Element `i` of a byte is its bit `7 - i`: a view lists bit 7 first (00_scope.md R13). -/
theorem elem_byte (u : Byte) (i : Fin 8) : elem u i = u.getLsbD (7 - i.val) := by
  simp [elem, BitVec.getMsbD_eq_getLsbD]

/-- Settles O37: the step records the view of the top cell, whose tag and payload follow its kind; the
payload of a letter is found by its place in the token set (44_speak_top.md R148). -/
theorem topReturnsTheViewAndChangesNothing : Obligations.TopReturnsTheViewAndChangesNothing := by
  intro s rest hpending
  refine ⟨topView s, step_top hpending, fun hstack => ?_, fun u below hstack => ?_,
    fun below hstack => ?_, fun c below hstack hletter => ?_⟩
  · rw [topView_of_nil hstack]
    exact ⟨rfl, rfl, rfl⟩
  · rw [topView_of_cons hstack]
    exact ⟨u, rfl, rfl, rfl, elem_byte u⟩
  · rw [topView_of_cons hstack]
    exact ⟨rfl, rfl, rfl⟩
  · rw [topView_of_cons hstack, Cell.view_chr_of_ne_space hletter]
    obtain ⟨k, hk, hc⟩ := Token.exists_index_of_ne_space hletter
    exact ⟨rfl, rfl, k, hk, hc, Token.ascii_of_getElem?_all hk hc⟩

end Sys2Proof.Machine
end

section
/-! Every error of an instruction's work has a cause other than NONE (60_exceptions.md R151): the
work is built from operand frames, Pushes and constant errors, and each of them keeps this. -/

namespace Sys2Proof.Machine

/-- The work raises no error without a cause. -/
def NamesCause (act : Act) : Prop := ∀ s c, act s = .error c → c ≠ .none

theorem namesCause_error {c : ErrCause} (hc : c ≠ .none) : NamesCause fun _ => .error c := by
  rintro s _ ⟨⟩
  exact hc

theorem namesCause_noWork : NamesCause noWork := fun _ _ h => nomatch h

theorem namesCause_pushCell (v : Cell) : NamesCause (pushCell v) := by
  intro s c h
  rw [(pushCell_error h).2]
  decide

theorem namesCause_bind {f g : Act} (hf : NamesCause f) (hg : NamesCause g) :
    NamesCause fun s => (f s).bind g := by
  intro s c h
  have hbind : (f s).bind g = .error c := h
  cases hfirst : f s with
  | error d =>
    rw [hfirst] at hbind
    exact Except.error.inj hbind ▸ hf s d hfirst
  | ok t =>
    rw [hfirst] at hbind
    exact hg t c hbind

theorem namesCause_withPop {k : Cell → Act} (hk : ∀ v, NamesCause (k v)) :
    NamesCause (withPop k) := by
  intro s c h
  obtain ⟨-, heq⟩ | ⟨v, rest, -, heq⟩ := withPop_cases k s
  · exact namesCause_error (by decide) s c (heq.symm.trans h)
  · exact hk v _ c (heq.symm.trans h)

theorem namesCause_withTwo {k : Cell → Cell → Act} (hk : ∀ x y, NamesCause (k x y)) :
    NamesCause (withTwo k) :=
  namesCause_withPop fun x => namesCause_withPop (hk x)

theorem namesCause_withOneInt {k : Byte → Act} (hk : ∀ a, NamesCause (k a)) :
    NamesCause (withOneInt k) := by
  refine namesCause_withPop fun v => ?_
  cases v with
  | int a => exact hk a
  | chr _ => exact namesCause_error (by decide)

theorem namesCause_withTwoInts {k : Byte → Byte → Act} (hk : ∀ a b, NamesCause (k a b)) :
    NamesCause (withTwoInts k) := by
  intro s c h
  obtain ⟨-, heq⟩ | ⟨x, y, rest, -, -, heq⟩ | ⟨a, b, rest, -, heq⟩ := withTwoInts_cases k s
  · exact namesCause_error (by decide) s c (heq.symm.trans h)
  · exact namesCause_error (by decide) s c (heq.symm.trans h)
  · exact hk a b _ c (heq.symm.trans h)

theorem namesCause_withTwoDigits {k : Nat → Nat → Act} (hk : ∀ a b, NamesCause (k a b)) :
    NamesCause (withTwoDigits k) := by
  intro s c h
  obtain ⟨-, heq⟩ | ⟨x, y, rest, -, -, heq⟩ | ⟨x, y, rest, a, b, -, -, -, heq⟩ :=
    withTwoDigits_cases k s
  · exact namesCause_error (by decide) s c (heq.symm.trans h)
  · exact namesCause_error (by decide) s c (heq.symm.trans h)
  · exact hk a b _ c (heq.symm.trans h)

theorem namesCause_writeResult (t : Int) : NamesCause (writeResult t) :=
  fun s => namesCause_pushCell _ (s.setOvf (overflows t))

theorem namesCause_divisorWork (t : Byte → Byte → Int) (x y : Byte) :
    NamesCause (divisorWork t x y) := by
  intro s c h
  rw [divisorWork] at h
  split at h
  · exact namesCause_error (by decide) s c h
  · exact namesCause_writeResult _ s c h

theorem namesCause_speakWork (n : Byte) : NamesCause (speakWork n) := by
  intro s c h
  rw [speakWork] at h
  split at h
  · exact namesCause_error (by decide) s c h
  · exact nomatch h

/-- Every instruction is the EXEC frame around some work that names the cause of its errors. -/
theorem exec_eq_runWord_namesCause (i : Instr) :
    ∃ act, NamesCause act ∧ ∀ s, exec i s = runWord (after i) act s := by
  cases i with
  | push n => exact ⟨_, namesCause_pushCell _, fun _ => rfl⟩
  | stp | nop0 | nop1 | nop2 | nop3 => exact ⟨_, namesCause_noWork, fun _ => rfl⟩
  | dup =>
    exact ⟨_, namesCause_withPop fun x =>
      namesCause_bind (namesCause_pushCell x) (namesCause_pushCell x), exec_dup⟩
  | del => exact ⟨_, namesCause_withPop fun _ => namesCause_noWork, exec_del⟩
  | swp =>
    exact ⟨_, namesCause_withTwo fun x y =>
      namesCause_bind (namesCause_pushCell x) (namesCause_pushCell y), exec_swp⟩
  | add | sub | mul | exp | shl | shr =>
    exact ⟨_, namesCause_withTwoInts fun _ _ => namesCause_writeResult _, arith_eq_runWord _⟩
  | div | mod =>
    exact ⟨_, namesCause_withTwoInts (namesCause_divisorWork _), arithDivisor_eq_runWord _⟩
  | hex => exact ⟨_, namesCause_withTwoDigits fun _ _ => namesCause_pushCell _, exec_hex⟩
  | ieq => exact ⟨_, namesCause_withTwoInts fun _ _ => namesCause_pushCell _, exec_ieq⟩
  | not => exact ⟨_, namesCause_withOneInt fun _ => namesCause_pushCell _, exec_not⟩
  | xor => exact ⟨_, namesCause_withTwoInts fun _ _ => namesCause_pushCell _, exec_xor⟩
  | speak => exact ⟨_, namesCause_withOneInt namesCause_speakWork, exec_speak⟩
  | chrA | chrB | chrC | chrD | chrE | chrF | chrG | chrH | chrI | chrJ | chrK | chrL | chrM | chrN
  | chrO | chrP | chrQ | chrR | chrS | chrT | chrU | chrV | chrW | chrX | chrY | chrZ | chrSpace =>
    exact ⟨_, namesCause_pushCell _, exec_of_token rfl⟩

end Sys2Proof.Machine
end

section
/-! An EXEC that fails (60_exceptions.md R156). -/

namespace Sys2Proof.Machine

/-- A successful instruction leaves STOPPED or RUNNING. -/
theorem after_ne_error (i : Instr) : after i ≠ .error := by
  rw [after]
  split <;> decide

/-- Outside the terminal states the EXEC frame leaves its own run state, or the word start with ERROR
and a cause. -/
theorem runWord_ne_error_or_failed {r : RunState} {act : Act} {s : State} (hrun : CanRun s)
    (hr : r ≠ .error) (hact : NamesCause act) : ∃ t, runWord r act s = .next t ∧
      (t.run ≠ .error ∨ ∃ c, c ≠ .none ∧ t = failed s c) := by
  cases hwork : act s with
  | ok t => exact ⟨_, runWord_of_canRun_ok hrun hwork, .inl hr⟩
  | error c => exact ⟨_, runWord_of_canRun_error hrun hwork, .inr ⟨c, hact s c hwork, rfl⟩⟩

/-- Outside the terminal states EXEC of any word, recognised or not, leaves a run state other than
ERROR, or the word start with ERROR and a cause. -/
theorem execWord_ne_error_or_failed {s : State} (w : CodeWord) (hrun : CanRun s) :
    ∃ t, execWord w s = .next t ∧ (t.run ≠ .error ∨ ∃ c, c ≠ .none ∧ t = failed s c) := by
  cases hdecode : decodeWith s.cfg.opmap s.cfg.charmap w with
  | ok i =>
    obtain ⟨act, hact, hexec⟩ := exec_eq_runWord_namesCause i
    rw [execWord, hdecode]
    simp only [hexec]
    exact runWord_ne_error_or_failed hrun (after_ne_error i) hact
  | error e => exact ⟨_, execWord_of_unrecognized hrun hdecode, .inr ⟨_, by decide, rfl⟩⟩

/-- Settles O23: the step takes the transaction, runs EXEC on what is then the word start, and records
the run state; an EXEC that ends in ERROR left the failed word start (60_exceptions.md R156). -/
theorem failedWordLeavesWordStart : Obligations.FailedWordLeavesWordStart := by
  intro s t w rest hrun hpending hstep herror
  obtain ⟨u, hexec, hne | ⟨c, hc, rfl⟩⟩ := execWord_ne_error_or_failed (s := s.setPending rest) w hrun
  all_goals
    rw [step_exec_of_next hpending hexec] at hstep
    cases hstep
  · exact absurd herror hne
  · exact ⟨c, hc, rfl⟩

end Sys2Proof.Machine
end

section
/-! RESET (70_reset_and_hazards.md R176). -/

namespace Sys2Proof.Machine

/-- A step with RESET pending takes it and resets the machine, and returns nothing
(10_state.md R42). -/
theorem step_reset {s : State} {rest : List Transaction} (hpending : s.pending = .reset :: rest) :
    step s = .next (resetMachine (s.setPending rest)) := by
  rw [step_of_pending hpending, issue]

/-- Settles O30: the step is `resetMachine` on the rest of the queue, which keeps every element it does
not set; and a step that changes a terminal run state is not one of the others, which keep it. -/
theorem resetSetsEveryElement : Obligations.ResetSetsEveryElement := by
  simp only [Obligations.ResetSetsEveryElement, ← RunState.terminal_iff]
  refine ⟨fun s rest hpending => step_reset hpending, fun s t hterminal hstep hleaves => ?_⟩
  exact (step_run_of_terminal hterminal hstep).resolve_left hleaves

end Sys2Proof.Machine
end

section
/-! A vector is its elements: those of a XOR, of a part of a word and of a unit vector
(00_scope.md R12 to R15). -/

namespace Sys2Proof

/-- Two vectors with the same elements are equal. -/
theorem eq_of_elem_eq {n : Nat} {a b : BitVec n} (h : ∀ i : Fin n, elem a i = elem b i) : a = b :=
  BitVec.eq_of_getMsbD_eq fun i hi => h ⟨i, hi⟩

/-- The elements of a XOR. -/
@[simp] theorem elem_xor {n : Nat} (a b : BitVec n) (i : Nat) :
    elem (a ^^^ b) i = (elem a i ^^ elem b i) := by
  simp [elem]

/-- The elements of the zero vector. -/
@[simp] theorem elem_zero (n i : Nat) : elem (0#n) i = false := by simp [elem]

/-- The elements of a part of a word, counted from the left. -/
theorem elem_extractLsb' {w start n : Nat} (v : BitVec w) (hle : start + n ≤ w) {i : Nat}
    (hi : i < n) : elem (v.extractLsb' start n) i = elem v (w - (start + n) + i) := by
  have hindex : start + (n - 1 - i) = w - 1 - (w - (start + n) + i) := by omega
  have hin : w - (start + n) + i < w := by omega
  have hout : n - 1 - i < n := by omega
  simp [elem, BitVec.getMsbD_eq_getLsbD, hi, hin, hout, hindex]

/-- The elements of a vector with one of them inverted (40_codec.md R82). -/
theorem elem_flipAt {n : Nat} (v : BitVec n) (j i : Fin n) :
    elem (flipAt v j) i = (elem v i ^^ decide (i = j)) := by
  rw [flipAt, elem_xor, elem_unitVec]

/-- A sum mod 2 of sums is the sum of the sums mod 2. -/
theorem foldl_xor_map_xor {α : Type} (f g : α → Bool) (l : List α) :
    (l.map fun j => f j ^^ g j).foldl Bool.xor false =
      ((l.map f).foldl Bool.xor false ^^ (l.map g).foldl Bool.xor false) := by
  induction l with
  | nil => rfl
  | cons j l ih =>
    simp only [List.map_cons, foldl_xor_cons, ih, Bool.xor_assoc, Bool.xor_left_comm (g j)]

/-- The parity is linear (00_scope.md R15). -/
theorem parity_xor {n : Nat} (a b : BitVec n) : parity (a ^^^ b) = (parity a ^^ parity b) := by
  simp only [parity, elems_eq_map_finRange, elem_xor, foldl_xor_map_xor]

/-- A unit vector has odd parity. -/
theorem parity_unitVec {n : Nat} (j : Fin n) : parity (unitVec n j.val) = true := by
  have hpick := foldl_xor_map_and_decide (fun _ => true) j (List.nodup_finRange n)
  simpa [parity, elems_eq_map_finRange, eq_comm (a := j)] using hpick

/-- A unit vector times a matrix is a row of it. -/
theorem rowComb_unitVec {n m : Nat} (j : Fin n) (M : Vector (BitVec m) n) :
    rowComb (elems (unitVec n j.val)) M.toList = M[j] := by
  refine eq_of_elem_eq fun i => ?_
  have hpick := foldl_xor_map_and_decide (fun r : Fin n => elem M[r] i) j (List.nodup_finRange n)
  simpa [elem_rowComb_elems, Bool.and_comm, eq_comm (a := j)] using hpick

/-- A vector times the identity matrix is the vector. -/
theorem rowComb_identity {n : Nat} (v : BitVec n) :
    rowComb (elems v) (Vector.ofFn fun j : Fin n => unitVec n j.val).toList = v := by
  refine eq_of_elem_eq fun i => ?_
  have hpick := foldl_xor_map_and_decide (fun r : Fin n => elem v r) i (List.nodup_finRange n)
  simpa [elem_rowComb_elems] using hpick

/-- A product with a matrix in two blocks is the sum of the products with the blocks. -/
theorem rowComb_append {m : Nat} (as bs : List Bool) (rows rows' : List (BitVec m))
    (hlen : as.length = rows.length) :
    rowComb (as ++ bs) (rows ++ rows') = rowComb as rows ^^^ rowComb bs rows' := by
  refine eq_of_elem_eq fun i => ?_
  simp only [elem_xor, elem_rowComb, List.zipWith_append hlen, foldl_xor_append]

end Sys2Proof
end

section
/-! DEC of an encoded word (40_codec.md R80 to R84), and its syndrome, which is zero for every
codeword (10_state.md R26). -/

namespace Sys2Proof.Machine

/-- The elements of the codeword part of a channel word (30_encoding.md R62). -/
theorem elem_blockOf (r : ChannelWord) (i : Fin 10) : elem (blockOf r) i = elem r i := by
  rw [blockOf, elem_extractLsb' r (by decide) i.isLt, Nat.sub_self, Nat.zero_add]

/-- The elements of the data part of a channel word (30_encoding.md R62). -/
theorem elem_dataOf (r : ChannelWord) (i : Fin 6) : elem (dataOf r) i = elem r i := by
  rw [dataOf, elem_extractLsb' r (by decide) i.isLt, Nat.sub_self, Nat.zero_add]

/-- The codeword part is linear. -/
theorem blockOf_xor (a b : ChannelWord) : blockOf (a ^^^ b) = blockOf a ^^^ blockOf b :=
  eq_of_elem_eq fun i => by simp only [elem_xor, elem_blockOf]

/-- The data part is linear. -/
theorem dataOf_xor (a b : ChannelWord) : dataOf (a ^^^ b) = dataOf a ^^^ dataOf b :=
  eq_of_elem_eq fun i => by simp only [elem_xor, elem_dataOf]

/-- The codeword part of an encoded word is its codeword. -/
theorem blockOf_enc (M : Matrices) (d : DataWord) : blockOf (enc M d) = codewordOf M d :=
  eq_of_elem_eq fun i => (elem_blockOf _ i).trans (elem_enc_block M d i.isLt)

/-- The data part of a word encoded with `G = [I|P]` is the data word. -/
theorem dataOf_enc (P : ParityBlock) (d : DataWord) : dataOf (enc (matricesOf P) d) = d :=
  eq_of_elem_eq fun i =>
    calc elem (dataOf (enc (matricesOf P) d)) i
      _ = elem (enc (matricesOf P) d) i := elem_dataOf _ i
      _ = elem (codewordOf (matricesOf P) d) i := elem_enc_block _ d (i.isLt.trans (by decide))
      _ = elem d i := elem_codewordOf_matricesOf_left P d i

/-- The syndrome of a word with a single 1 is the row of `Hᵗ` at its place. -/
theorem syndrome_unitVec (M : Matrices) (j : Fin 10) : syndrome M (unitVec 10 j.val) = M.ht[j] :=
  rowComb_unitVec j M.ht

/-- The syndrome of zero is zero. -/
theorem syndrome_zero (M : Matrices) : syndrome M 0#10 = 0#4 := by
  simpa using syndrome_xor M 0#10 0#10

/-- The syndrome of a row `[e_j | p]` of `G` is the row `p` of `P` and once more `p`, by the two
blocks of `Hᵗ`. -/
theorem syndrome_generatorOf_row (P : ParityBlock) (j : Fin 6) :
    syndrome (matricesOf P) (matricesOf P).g[j] = 0#4 := by
  have hrow : (matricesOf P).g[j] = unitVec 6 j.val ++ P[j] := generatorOf_row P j
  have hht : (matricesOf P).ht.toList =
      P.toList ++ (Vector.ofFn fun m : Fin 4 => unitVec 4 m.val).toList := Vector.toList_append
  rw [syndrome, hrow, hht, elems_append, rowComb_append _ _ _ _ (by simp), rowComb_unitVec,
    rowComb_identity, BitVec.xor_self]

/-- A product of zero rows is zero. -/
theorem rowComb_of_forall_eq_zero {m : Nat} (bs : List Bool) {rows : List (BitVec m)}
    (hrows : ∀ r ∈ rows, r = 0#m) : rowComb bs rows = 0#m := by
  induction rows generalizing bs with
  | nil => cases bs <;> rfl
  | cons r rows ih =>
    cases bs with
    | nil => rfl
    | cons b bs =>
      have hr : r = 0#m := hrows r List.mem_cons_self
      rw [rowComb, ih bs fun x hx => hrows x (List.mem_cons_of_mem r hx), hr]
      simp

/-- The syndrome of every codeword is zero: it is the product of the data word with the syndromes of
the rows of `G`. -/
theorem syndrome_codewordOf (P : ParityBlock) (d : DataWord) :
    syndrome (matricesOf P) (codewordOf (matricesOf P) d) = 0#4 := by
  rw [syndrome, codewordOf, rowComb_rowComb]
  refine rowComb_of_forall_eq_zero _ fun r hr => ?_
  obtain ⟨row, hrow, rfl⟩ := List.mem_map.mp hr
  obtain ⟨j, hj, rfl⟩ := List.getElem_of_mem hrow
  exact syndrome_generatorOf_row P ⟨j, by simpa using hj⟩

/-- Settles O5: the rows of `G` have the syndrome zero, and so have their products
(10_state.md R26). -/
theorem codewordsHaveZeroSyndrome : Obligations.CodewordsHaveZeroSyndrome :=
  fun P => ⟨syndrome_codewordOf P, syndrome_generatorOf_row P⟩

section
variable {M : Matrices} {r : ChannelWord}

/-- Even parity and a zero syndrome (40_codec.md R81). -/
theorem dec_of_valid (hparity : parity r = false) (hsyn : syndrome M (blockOf r) = 0#4) :
    dec M r = (dataOf r, .valid) := by
  unfold dec
  simp only [hparity, hsyn, bne_self_eq_false]

/-- Odd parity and a zero syndrome: the parity bit alone is wrong (40_codec.md R81). -/
theorem dec_of_parity_error (hparity : parity r = true) (hsyn : syndrome M (blockOf r) = 0#4) :
    dec M r = (dataOf r, .corrected) := by
  unfold dec
  simp only [hparity, hsyn, bne_self_eq_false]

/-- Even parity and a nonzero syndrome: an even number of errors (40_codec.md R81). -/
theorem dec_of_even_error (hparity : parity r = false) (hsyn : syndrome M (blockOf r) ≠ 0#4) :
    dec M r = (dataOf r, .uncorrectable) := by
  unfold dec
  simp only [hparity, bne_iff_ne.mpr hsyn]

/-- Odd parity and a nonzero syndrome: one error to be located (40_codec.md R81). -/
theorem dec_of_odd_error (hparity : parity r = true) (hsyn : syndrome M (blockOf r) ≠ 0#4) :
    dec M r = decSingle M (dataOf r) (syndrome M (blockOf r)) := by
  unfold dec
  simp only [hparity, bne_iff_ne.mpr hsyn]

/-- Odd parity and a nonzero syndrome, located at the first row equal to it (40_codec.md R82). -/
theorem dec_of_located {j : Fin 10} (hparity : parity r = true)
    (hsyn : syndrome M (blockOf r) ≠ 0#4) (hrow : M.ht[j] = syndrome M (blockOf r))
    (hfirst : ∀ i : Fin 10, i < j → M.ht[i] ≠ syndrome M (blockOf r)) :
    dec M r = (if j.val < 6 then flipAt (dataOf r) j else dataOf r, .corrected) := by
  have hlocate : locate M (syndrome M (blockOf r)) = some j.val := by
    refine (List.findIdx?_eq_some_iff_getElem).mpr ⟨by simp, by simpa using hrow, fun i hi => ?_⟩
    simpa using hfirst ⟨i, hi.trans j.isLt⟩ hi
  rw [dec_of_odd_error hparity hsyn, decSingle, hlocate]

/-- Odd parity and a syndrome that is no row of `Hᵗ` (40_codec.md R83). -/
theorem dec_of_not_located (hparity : parity r = true) (hsyn : syndrome M (blockOf r) ≠ 0#4)
    (habsent : ∀ j : Fin 10, M.ht[j] ≠ syndrome M (blockOf r)) :
    dec M r = (dataOf r, .uncorrectable) := by
  have hlocate : locate M (syndrome M (blockOf r)) = none := by
    refine List.findIdx?_eq_none_iff.mpr fun row hrow => ?_
    obtain ⟨j, hj, rfl⟩ := List.getElem_of_mem hrow
    simpa using habsent ⟨j, by simpa using hj⟩
  rw [dec_of_odd_error hparity hsyn, decSingle, hlocate]

end

/-- Settles O7: an encoded word has even parity and the syndrome zero, and holds its data word
(40_codec.md R86). -/
theorem roundTripIsValid : Obligations.RoundTripIsValid := by
  intro P d
  have hsyn : syndrome (matricesOf P) (blockOf (enc (matricesOf P) d)) = 0#4 := by
    rw [blockOf_enc, syndrome_codewordOf]
  rw [dec_of_valid (parity_enc _ d) hsyn, dataOf_enc]

/-- A step with DEC pending takes it and records the answer, and nothing else. -/
theorem step_dec {s : State} {r : ChannelWord} {rest : List Transaction}
    (hpending : s.pending = .dec r :: rest) :
    step s = .next ((s.setPending rest).emit
      (.decReturned (dec s.codec r).1 (dec s.codec r).2)) := by
  rw [step_of_pending hpending, issue, State.setPending_codec]

/-- An element of the syndrome of a channel word, `Σ_j r⟨j⟩ · Hᵗ[j][k]` (40_codec.md R80). -/
theorem elem_syndrome_blockOf (M : Matrices) (r : ChannelWord) (k : Nat) :
    elem (syndrome M (blockOf r)) k =
      ((List.finRange 10).map fun j : Fin 10 => elem r j && elem M.ht[j] k).foldl
        Bool.xor false := by
  rw [syndrome, elem_rowComb_elems]
  simp only [elem_blockOf]

/-- The data word with the located bit inverted, when it is a data bit (40_codec.md R82). -/
theorem elem_located (d : DataWord) (j : Fin 10) (i : Fin 6) :
    elem (if j.val < 6 then flipAt d j else d) i = (elem d i ^^ decide (i.val = j.val)) := by
  split_ifs with hj
  · rw [elem_flipAt d ⟨j.val, hj⟩ i]
    simp [Fin.ext_iff]
  · have hne : i.val ≠ j.val := by omega
    simp [hne]

/-- Settles O6: the four rows of the table are the four cases of parity and syndrome, the last one
with a row of `Hᵗ` or without (40_codec.md R81 to R84). -/
theorem decFollowsDecisionTable : Obligations.DecFollowsDecisionTable := by
  intro s r rest hpending
  refine ⟨_, _, dataOf r, syndrome s.codec (blockOf r), step_dec hpending, elem_dataOf r,
    fun k => elem_syndrome_blockOf s.codec r k, fun ⟨hparity, hsyn⟩ => ?_,
    fun ⟨hparity, hsyn⟩ => ?_, fun ⟨hparity, hsyn⟩ => ?_, fun ⟨hparity, hsyn⟩ =>
      ⟨fun j hrow hfirst => ?_, fun habsent => ?_⟩⟩
  · rw [dec_of_valid hparity hsyn]
    exact ⟨rfl, rfl⟩
  · rw [dec_of_parity_error hparity hsyn]
    exact ⟨rfl, rfl⟩
  · rw [dec_of_even_error hparity hsyn]
    exact ⟨rfl, rfl⟩
  · rw [dec_of_located hparity hsyn hrow hfirst]
    exact ⟨rfl, elem_located _ j⟩
  · rw [dec_of_not_located hparity hsyn habsent]
    exact ⟨rfl, rfl⟩

end Sys2Proof.Machine
end

section
/-! Words with one and with two flipped bits (40_codec.md R86): by linearity the syndrome and the
parity of a received word are those of its error. -/

namespace Sys2Proof.Machine

/-- The syndrome of a single error at one of the 11 places of a channel word: a row of `Hᵗ`, or zero
for the overall parity bit. -/
def errorSyndrome (M : Matrices) (j : Fin 11) : Syndrome := syndrome M (blockOf (unitVec 11 j.val))

/-- An error in the codeword has the row of `Hᵗ` at its place. -/
theorem errorSyndrome_castSucc (M : Matrices) (j : Fin 10) :
    errorSyndrome M j.castSucc = M.ht[j] := by
  have hblock : blockOf (unitVec 11 j.castSucc.val) = unitVec 10 j.val :=
    eq_of_elem_eq fun i => by
      rw [elem_blockOf, elem_unitVec j i]
      exact (elem_unitVec j.castSucc i.castSucc).trans (by simp)
  rw [errorSyndrome, hblock, syndrome_unitVec]

/-- An error in the overall parity bit has the syndrome zero. -/
theorem errorSyndrome_last (M : Matrices) : errorSyndrome M (Fin.last 10) = 0#4 := by
  have hblock : blockOf (unitVec 11 (Fin.last 10).val) = 0#10 :=
    eq_of_elem_eq fun i => by
      rw [elem_blockOf, elem_zero]
      exact (elem_unitVec (Fin.last 10) i.castSucc).trans
        (decide_eq_false (Fin.castSucc_lt_last i).ne)
  rw [errorSyndrome, hblock, syndrome_zero]

section
variable {M : Matrices} (hnodup : M.ht.toList.Nodup) (hzero : 0#4 ∉ M.ht.toList)
include hnodup

/-- Two rows of `Hᵗ` are equal only at the same place (00_scope.md R11). -/
theorem checkRow_inj {i j : Fin 10} (h : M.ht[i] = M.ht[j]) : i = j := by
  have hindex : i.val = j.val :=
    (hnodup.getElem_inj_iff (hi := by simp) (hj := by simp)).mp (by simpa using h)
  exact Fin.ext hindex

omit hnodup in
include hzero in
/-- No row of `Hᵗ` is zero (00_scope.md R11). -/
theorem checkRow_ne_zero (j : Fin 10) : M.ht[j] ≠ 0#4 := fun h =>
  hzero (h ▸ Vector.mem_toList_iff.mpr (Vector.getElem_mem j.isLt))

include hzero in
/-- Single errors at different places have different syndromes. -/
theorem errorSyndrome_injective : Function.Injective (errorSyndrome M) := by
  intro i j h
  induction i using Fin.lastCases with
  | last =>
    induction j using Fin.lastCases with
    | last => rfl
    | cast j =>
      rw [errorSyndrome_last, errorSyndrome_castSucc] at h
      exact absurd h.symm (checkRow_ne_zero hzero j)
  | cast i =>
    induction j using Fin.lastCases with
    | last =>
      rw [errorSyndrome_last, errorSyndrome_castSucc] at h
      exact absurd h (checkRow_ne_zero hzero i)
    | cast j =>
      rw [errorSyndrome_castSucc, errorSyndrome_castSucc] at h
      rw [checkRow_inj hnodup h]

end

section
variable (P : ParityBlock) (d : DataWord)

/-- The parity of a word with a flipped bit. -/
theorem parity_flipAt (r : ChannelWord) (j : Fin 11) : parity (flipAt r j) = !parity r := by
  rw [flipAt, parity_xor, parity_unitVec, Bool.xor_true]

/-- The syndrome of a word with a flipped bit. -/
theorem syndrome_flipAt (M : Matrices) (r : ChannelWord) (j : Fin 11) :
    syndrome M (blockOf (flipAt r j)) = syndrome M (blockOf r) ^^^ errorSyndrome M j := by
  rw [flipAt, blockOf_xor, syndrome_xor, errorSyndrome]

/-- The syndrome of an encoded word with a flipped bit is that of the error. -/
theorem syndrome_flipAt_enc (j : Fin 11) :
    syndrome (matricesOf P) (blockOf (flipAt (enc (matricesOf P) d) j)) =
      errorSyndrome (matricesOf P) j := by
  rw [syndrome_flipAt, blockOf_enc, syndrome_codewordOf, BitVec.zero_xor]

/-- Correcting the flipped bit of an encoded word gives the data word back, whether it is a data bit
or not. -/
theorem correct_dataOf_flipAt_enc (j : Fin 11) :
    (if j.val < 6 then flipAt (dataOf (flipAt (enc (matricesOf P) d) j)) j
      else dataOf (flipAt (enc (matricesOf P) d) j)) = d := by
  have hreceived : dataOf (flipAt (enc (matricesOf P) d) j) = d ^^^ dataOf (unitVec 11 j.val) := by
    rw [flipAt, dataOf_xor, dataOf_enc]
  rw [hreceived]
  have hunit (i : Fin 6) : elem (dataOf (unitVec 11 j.val)) i = decide (i.val = j.val) := by
    have helem := elem_unitVec j (i.castLE (by decide))
    rw [elem_dataOf]
    simpa [Fin.ext_iff] using helem
  refine eq_of_elem_eq fun i => ?_
  split_ifs with hj
  · rw [elem_flipAt _ ⟨j.val, hj⟩ i, elem_xor, hunit]
    simp [Fin.ext_iff]
  · have hne : i.val ≠ j.val := by omega
    simp [hunit, hne]

end

/-- Settles O8: a flipped parity bit leaves the syndrome zero, and every other flipped bit is
located at its own row of `Hᵗ`, the only one equal to the syndrome (40_codec.md R86). -/
theorem singleErrorIsCorrected : Obligations.SingleErrorIsCorrected := by
  intro P hnodup hzero d j
  have hparity : parity (flipAt (enc (matricesOf P) d) j) = true := by
    rw [parity_flipAt, parity_enc, Bool.not_false]
  have hsyn := syndrome_flipAt_enc P d j
  have hdata := correct_dataOf_flipAt_enc P d j
  induction j using Fin.lastCases with
  | last =>
    rw [errorSyndrome_last] at hsyn
    rw [if_neg (by decide)] at hdata
    rw [dec_of_parity_error hparity hsyn, hdata]
  | cast j =>
    rw [errorSyndrome_castSucc] at hsyn
    have hnonzero : syndrome (matricesOf P)
        (blockOf (flipAt (enc (matricesOf P) d) j.castSucc)) ≠ 0#4 :=
      hsyn ▸ checkRow_ne_zero hzero j
    have hfirst (i : Fin 10) (hi : i < j) : (matricesOf P).ht[i] ≠
        syndrome (matricesOf P) (blockOf (flipAt (enc (matricesOf P) d) j.castSucc)) :=
      fun h => hi.ne (checkRow_inj hnodup (h.trans hsyn))
    rw [dec_of_located hparity hnonzero hsyn.symm hfirst]
    exact Prod.ext hdata rfl

/-- Settles O9: two flips keep the parity even, and the syndromes of two single errors are
different, so that their sum is not zero (40_codec.md R86). -/
theorem doubleErrorIsDetected : Obligations.DoubleErrorIsDetected := by
  intro P hnodup hzero d i j hij
  have hparity : parity (flipAt (flipAt (enc (matricesOf P) d) i) j) = false := by
    rw [parity_flipAt, parity_flipAt, parity_enc, Bool.not_not]
  have hsyn : syndrome (matricesOf P)
      (blockOf (flipAt (flipAt (enc (matricesOf P) d) i) j)) ≠ 0#4 := by
    rw [syndrome_flipAt, syndrome_flipAt_enc]
    intro h
    exact hij (errorSyndrome_injective hnodup hzero (BitVec.xor_eq_zero_iff.mp h))
  rw [dec_of_even_error hparity hsyn]

end Sys2Proof.Machine
end

section
/-! The shapes of the instructions' work (41_stack_ops.md R91, R95, R96): what is said about every
instruction is said once for each shape. -/

namespace Sys2Proof.Machine

/-- The shape of an instruction's work, with the causes the table of 60_exceptions.md R151 lists for
the instructions of that shape. -/
inductive WorkShape : Instr → Act → Prop where
  /-- PUSH and the character pushes (41_stack_ops.md R97, R98). -/
  | push {i : Instr} (v : Cell) (hcauses : MayRaise i = [.capacity]) : WorkShape i (pushCell v)
  /-- STP and the no-operations (41_stack_ops.md R99, R100). -/
  | none (i : Instr) (hcauses : MayRaise i = []) : WorkShape i noWork
  | dup : WorkShape .dup (withPop fun x s => (pushCell x s).bind (pushCell x))
  | del : WorkShape .del (withPop fun _ => noWork)
  | swp : WorkShape .swp (withTwo fun x y s => (pushCell x s).bind (pushCell y))
  /-- The instructions that write the flag and have no divisor (42_arithmetic.md R111). -/
  | arith {i : Instr} (f : Byte → Byte → Int) (hwrites : WritesOvf i)
      (hcauses : MayRaise i = [.underflow, .type]) :
      WorkShape i (withTwoInts fun x y => writeResult (f y x))
  /-- DIV and MOD (42_arithmetic.md R117, R119). -/
  | divisor {i : Instr} (f : Byte → Byte → Int) (hwrites : WritesOvf i)
      (hcauses : MayRaise i = [.underflow, .type, .divZero]) :
      WorkShape i (withTwoInts (divisorWork f))
  /-- IEQ and XOR (43_logic_convert.md R133, R135). -/
  | combine {i : Instr} (f : Byte → Byte → Byte) (hcauses : MayRaise i = [.underflow, .type]) :
      WorkShape i (withTwoInts fun x y => pushCell (.int (f y x)))
  | hex : WorkShape .hex (withTwoDigits fun x y => pushCell (.int (BitVec.ofNat 8 (16 * y + x))))
  | not : WorkShape .not (withOneInt fun x => pushCell (.int (~~~x)))
  | speak : WorkShape .speak (withOneInt speakWork)

/-- Every instruction is the EXEC frame around a work of one of the shapes. -/
theorem exec_eq_runWord_shape (i : Instr) :
    ∃ act, WorkShape i act ∧ ∀ s, exec i s = runWord (after i) act s := by
  cases i with
  | push n => exact ⟨_, .push _ rfl, exec_push n⟩
  | stp | nop0 | nop1 | nop2 | nop3 => exact ⟨_, .none _ rfl, fun _ => rfl⟩
  | dup => exact ⟨_, .dup, exec_dup⟩
  | del => exact ⟨_, .del, exec_del⟩
  | swp => exact ⟨_, .swp, exec_swp⟩
  | add | sub | mul | exp | shl | shr =>
    exact ⟨_, .arith _ (by simp [WritesOvf]) rfl, arith_eq_runWord _⟩
  | div | mod => exact ⟨_, .divisor _ (by simp [WritesOvf]) rfl, arithDivisor_eq_runWord _⟩
  | hex => exact ⟨_, .hex, exec_hex⟩
  | ieq => exact ⟨_, .combine (fun y x => if y = x then 1#8 else 0#8) rfl, exec_ieq⟩
  | not => exact ⟨_, .not, exec_not⟩
  | xor => exact ⟨_, .combine (fun y x => y ^^^ x) rfl, exec_xor⟩
  | speak => exact ⟨_, .speak, exec_speak⟩
  | chrA | chrB | chrC | chrD | chrE | chrF | chrG | chrH | chrI | chrJ | chrK | chrL | chrM | chrN
  | chrO | chrP | chrQ | chrR | chrS | chrT | chrU | chrV | chrW | chrX | chrY | chrZ | chrSpace =>
    exact ⟨_, .push _ rfl, exec_of_token rfl⟩

end Sys2Proof.Machine
end

section
/-! What the work of an instruction can do: its effect when it succeeds, and its causes when it does
not (10_state.md R32, R33; 20_memory.md R48; 60_exceptions.md R151). -/

namespace Sys2Proof.Machine

/-- What a successful work may change, and by how much. -/
structure WorkEffect (i : Instr) (s t : State) : Prop where
  run : t.run = s.run
  errCause : t.errCause = s.errCause
  codec : t.codec = s.codec
  cfg : t.cfg = s.cfg
  pending : t.pending = s.pending
  ovf : t.ovf = s.ovf ∨ WritesOvf i
  outputs : t.outputs = s.outputs ∨ (i = .speak ∧ ∃ x, t.outputs = s.outputs ++ [.announced x])
  grows : t.stack.length ≤ s.stack.length + 1
  shrinks : s.stack.length ≤ t.stack.length + 256
  fits : StackFits s → StackFits t

/-- The causes that work on the word start may raise: the listed ones, and CAPACITY on a stack that
is already too deep; CAPACITY only with a finite depth. -/
structure WorkError (i : Instr) (s : State) (c : ErrCause) : Prop where
  listed : c ∈ MayRaise i ∨ (c = .capacity ∧ ¬ StackFits s)
  finite : c = .capacity → s.cfg.stackDepth ≠ none

/-- What the work of an instruction may answer on the word start. -/
def WorkOutcome (i : Instr) (s : State) : Except ErrCause State → Prop
  | .ok t => WorkEffect i s t
  | .error c => WorkError i s c

section
variable {i : Instr} {s : State}

/-- A listed cause other than CAPACITY. -/
theorem workOutcome_error {c : ErrCause} (hlisted : c ∈ MayRaise i) (hc : c ≠ .capacity) :
    WorkOutcome i s (.error c) :=
  ⟨.inl hlisted, fun h => absurd h hc⟩

/-- The depth of a full stack is finite. -/
theorem stackDepth_ne_none_of_stackFull (h : stackFull s = true) : s.cfg.stackDepth ≠ none := by
  have hfull : Full s := (stackFull_iff s).mp h
  rw [hfull]
  exact Option.some_ne_none _

/-- Everything a Push can do (20_memory.md R48). -/
theorem pushCell_cases (v : Cell) (s : State) :
    (stackFull s = true ∧ pushCell v s = .error .capacity) ∨
    (stackFull s = false ∧ pushCell v s = .ok (s.setStack (v :: s.stack))) := by
  cases h : stackFull s with
  | true => exact .inl ⟨rfl, pushCell_of_full ((stackFull_iff s).mp h)⟩
  | false => exact .inr ⟨rfl, pushCell_of_room h⟩

/-- A change of the stack alone. -/
theorem workEffect_setStack {l : List Cell} (hgrows : l.length ≤ s.stack.length + 1)
    (hshrinks : s.stack.length ≤ l.length + 256) (hfits : StackFits s → StackFits (s.setStack l)) :
    WorkEffect i s (s.setStack l) :=
  ⟨rfl, rfl, rfl, rfl, rfl, .inl rfl, .inl rfl, hgrows, hshrinks, hfits⟩

/-- A stack that is not deeper than one within its depth. -/
theorem stackFits_setStack_of_le {l : List Cell} (hle : l.length ≤ s.stack.length)
    (hfits : StackFits s) : StackFits (s.setStack l) :=
  fun d hd => hle.trans (hfits d hd)

/-- One more cell on a stack within its depth and not full. -/
theorem stackFits_setStack_cons (v : Cell) (hroom : stackFull s = false) (hfits : StackFits s) :
    StackFits (s.setStack (v :: s.stack)) := by
  intro d hd
  have hnotFull : NotFull s := by
    rw [notFull_iff, ← stackFull_iff, hroom]
    exact Bool.false_ne_true
  exact (hfits d hd).lt_of_ne (hnotFull d hd)

/-- A Push on the word start. -/
theorem workOutcome_pushCell (v : Cell) (hlisted : .capacity ∈ MayRaise i) :
    WorkOutcome i s (pushCell v s) := by
  obtain ⟨hfull, hpush⟩ | ⟨hroom, hpush⟩ := pushCell_cases v s
  · rw [hpush]
    exact ⟨.inl hlisted, fun _ => stackDepth_ne_none_of_stackFull hfull⟩
  · rw [hpush]
    exact workEffect_setStack le_rfl (by simp; omega) (stackFits_setStack_cons v hroom)

/-- A shortened stack is full only if the word start's was too deep. -/
theorem workOutcome_capacity_of_shortened {l : List Cell} (hlen : l.length < s.stack.length)
    (hfull : stackFull (s.setStack l) = true) : WorkOutcome i s (.error .capacity) := by
  have hdepth : s.cfg.stackDepth ≠ none :=
    stackDepth_ne_none_of_stackFull (s := s.setStack l) hfull
  refine ⟨.inr ⟨rfl, fun hfits => ?_⟩, fun _ => hdepth⟩
  rw [stackFull_setStack_of_lt hfits hlen] at hfull
  exact Bool.false_ne_true hfull

/-- A Push after Pops. -/
theorem workOutcome_pushCell_shortened (v : Cell) {l : List Cell} (hlen : l.length < s.stack.length)
    (hpopped : s.stack.length ≤ l.length + 257) : WorkOutcome i s (pushCell v (s.setStack l)) := by
  obtain ⟨hfull, hpush⟩ | ⟨-, hpush⟩ := pushCell_cases v (s.setStack l)
  · rw [hpush]
    exact workOutcome_capacity_of_shortened hlen hfull
  · rw [hpush]
    exact workEffect_setStack (l := v :: l) (by simp; omega) (by simpa using hpopped)
      (stackFits_setStack_of_le hlen)

/-- Two Pushes after Pops, the second given by what it does once the first has succeeded. -/
theorem workOutcome_pushCell_bind (v w : Cell) {l : List Cell} (hlen : l.length < s.stack.length)
    (hsecond : WorkOutcome i s (pushCell w (s.setStack (v :: l)))) :
    WorkOutcome i s ((pushCell v (s.setStack l)).bind (pushCell w)) := by
  obtain ⟨hfull, hpush⟩ | ⟨-, hpush⟩ := pushCell_cases v (s.setStack l)
  · rw [hpush]
    exact workOutcome_capacity_of_shortened hlen hfull
  · rw [hpush]
    exact hsecond

/-- The result of an arithmetic instruction after Pops. -/
theorem workOutcome_writeResult_shortened (r : Int) {l : List Cell} (hwrites : WritesOvf i)
    (hlen : l.length < s.stack.length) (hpopped : s.stack.length ≤ l.length + 257) :
    WorkOutcome i s (writeResult r (s.setStack l)) := by
  obtain ⟨hfull, hwrite⟩ | ⟨-, hwrite⟩ := writeResult_cases r (s.setStack l)
  · rw [hwrite]
    exact workOutcome_capacity_of_shortened hlen hfull
  · rw [hwrite]
    exact ⟨rfl, rfl, rfl, rfl, rfl, .inr hwrites, .inl rfl, by simp; omega, by simpa using hpopped,
      stackFits_setStack_of_le hlen⟩

/-- The two-integer frame, given what its work does on two integers. -/
theorem workOutcome_withTwoInts {k : Byte → Byte → Act} (hunderflow : .underflow ∈ MayRaise i)
    (htype : .type ∈ MayRaise i)
    (hk : ∀ a b l, s.stack.length = l.length + 2 → WorkOutcome i s (k a b (s.setStack l))) :
    WorkOutcome i s (withTwoInts k s) := by
  obtain ⟨-, hact⟩ | ⟨x, y, rest, -, -, hact⟩ | ⟨a, b, rest, hstack, hact⟩ := withTwoInts_cases k s
  · exact hact ▸ workOutcome_error hunderflow (by decide)
  · exact hact ▸ workOutcome_error htype (by decide)
  · exact hact ▸ hk a b rest (by simp [hstack])

/-- The one-integer frame, given what its work does on an integer. -/
theorem workOutcome_withOneInt {k : Byte → Act} (hunderflow : .underflow ∈ MayRaise i)
    (htype : .type ∈ MayRaise i)
    (hk : ∀ a l, s.stack.length = l.length + 1 → WorkOutcome i s (k a (s.setStack l))) :
    WorkOutcome i s (withOneInt k s) := by
  obtain ⟨-, hact⟩ | ⟨c, rest, -, hact⟩ | ⟨a, rest, hstack, hact⟩ := withOneInt_cases k s
  · exact hact ▸ workOutcome_error hunderflow (by decide)
  · exact hact ▸ workOutcome_error htype (by decide)
  · exact hact ▸ hk a rest (by simp [hstack])

/-- The collected cells are removed, as many as counted. -/
theorem length_of_collect {n : Nat} {l rest : List Cell} {x : Text}
    (h : collect n l = some (x, rest)) : l.length = rest.length + n := by
  have hlen : n ≤ l.length := by
    by_contra hshort
    rw [collect_of_short (by omega)] at h
    cases h
  have hall := collect_append (l.take n) (l.drop n)
  rw [List.take_append_drop, List.length_take_of_le hlen, h] at hall
  have hrest : rest = l.drop n := congrArg Prod.snd (Option.some.inj hall)
  rw [hrest, List.length_drop]
  omega

/-- The work of SPEAK removes the count and at most 255 more cells, and makes one announcement. -/
theorem workOutcome_speakWork (n : Byte) {l : List Cell} (hlen : s.stack.length = l.length + 1) :
    WorkOutcome .speak s (speakWork n (s.setStack l)) := by
  have hcount : n.toNat < 256 := n.isLt
  cases hcollect : collect n.toNat l with
  | none =>
    have hwork : speakWork n (s.setStack l) = .error .underflow := by
      simp only [speakWork, State.setStack_stack, hcollect]
    exact hwork ▸ workOutcome_error (by decide) (by decide)
  | some p =>
    obtain ⟨x, rest⟩ := p
    have hrest : l.length = rest.length + n.toNat := length_of_collect hcollect
    have hwork : speakWork n (s.setStack l) = .ok (announce x (s.setStack rest)) := by
      simp only [speakWork, State.setStack_stack, hcollect]
      rfl
    rw [hwork]
    exact ⟨rfl, rfl, rfl, rfl, rfl, .inl rfl, .inr ⟨rfl, x, rfl⟩, by simp [announce]; omega,
      by simp [announce]; omega, stackFits_setStack_of_le (l := rest) (by omega)⟩

end

/-- What the work of each shape can do. -/
theorem workOutcome_of_shape {i : Instr} {act : Act} (h : WorkShape i act) (s : State) :
    WorkOutcome i s (act s) := by
  cases h with
  | push v hcauses => exact workOutcome_pushCell v (by simp [hcauses])
  | none _ _ => exact workEffect_setStack (l := s.stack) (by omega) (by omega) id
  | dup =>
    obtain ⟨-, hact⟩ | ⟨x, rest, hstack, hact⟩ := withPop_cases
      (fun x s => (pushCell x s).bind (pushCell x)) s
    · exact hact ▸ workOutcome_error (by decide) (by decide)
    · rw [hact]
      refine workOutcome_pushCell_bind x x (by simp [hstack]) ?_
      rw [State.setStack_of_eq hstack]
      exact workOutcome_pushCell x (by decide)
  | del =>
    obtain ⟨-, hact⟩ | ⟨x, rest, hstack, hact⟩ := withPop_cases (fun _ => noWork) s
    · exact hact ▸ workOutcome_error (by decide) (by decide)
    · rw [hact]
      have hlen : s.stack.length = rest.length + 1 := by simp [hstack]
      exact workEffect_setStack (by omega) (by omega) (stackFits_setStack_of_le (by omega))
  | swp =>
    obtain ⟨-, hact⟩ | ⟨x, y, rest, hstack, hact⟩ := withTwo_cases
      (fun x y s => (pushCell x s).bind (pushCell y)) s
    · exact hact ▸ workOutcome_error (by decide) (by decide)
    · rw [hact]
      exact workOutcome_pushCell_bind x y (by simp [hstack])
        (workOutcome_pushCell_shortened y (by simp [hstack]) (by simp [hstack]))
  | arith f hwrites hcauses =>
    exact workOutcome_withTwoInts (by simp [hcauses]) (by simp [hcauses]) fun _ _ _ hlen =>
      workOutcome_writeResult_shortened _ hwrites (by omega) (by omega)
  | divisor f hwrites hcauses =>
    refine workOutcome_withTwoInts (by simp [hcauses]) (by simp [hcauses]) fun x y l hlen => ?_
    rw [divisorWork]
    split
    · exact workOutcome_error (by simp [hcauses]) (by decide)
    · exact workOutcome_writeResult_shortened _ hwrites (by omega) (by omega)
  | combine f hcauses =>
    exact workOutcome_withTwoInts (by simp [hcauses]) (by simp [hcauses]) fun _ _ _ hlen =>
      workOutcome_pushCell_shortened _ (by omega) (by omega)
  | hex =>
    obtain ⟨-, hact⟩ | ⟨x, y, rest, -, -, hact⟩ | ⟨x, y, rest, a, b, hstack, -, -, hact⟩ :=
      withTwoDigits_cases (fun x y => pushCell (.int (BitVec.ofNat 8 (16 * y + x)))) s
    · exact hact ▸ workOutcome_error (by decide) (by decide)
    · exact hact ▸ workOutcome_error (by decide) (by decide)
    · rw [hact]
      exact workOutcome_pushCell_shortened _ (by simp [hstack]) (by simp [hstack])
  | not =>
    exact workOutcome_withOneInt (by decide) (by decide) fun _ _ hlen =>
      workOutcome_pushCell_shortened _ (by omega) (by omega)
  | speak =>
    exact workOutcome_withOneInt (by decide) (by decide) fun n _ hlen =>
      workOutcome_speakWork n hlen

/-- Everything EXEC of an instruction can do, with the effect of its work and the causes of its
errors. -/
theorem exec_outcomes (i : Instr) (s : State) :
    (s.run.terminal = true ∧ exec i s = .next s) ∨
    (CanRun s ∧ ∃ t, WorkEffect i s t ∧ exec i s = .next (t.setRun (after i))) ∨
    (CanRun s ∧ ∃ c, WorkError i s c ∧ exec i s = .next (failed s c)) := by
  obtain ⟨act, hshape, hexec⟩ := exec_eq_runWord_shape i
  have houtcome := workOutcome_of_shape hshape s
  rw [hexec, canRun_iff_not_terminal]
  obtain ⟨hterminal, heq⟩ | ⟨hrun, t, hact, heq⟩ | ⟨hrun, c, hact, heq⟩ :=
    runWord_cases (after i) act s
  · exact .inl ⟨hterminal, heq⟩
  · rw [hact] at houtcome
    exact .inr (.inl ⟨hrun, t, houtcome, heq⟩)
  · rw [hact] at houtcome
    exact .inr (.inr ⟨hrun, c, houtcome, heq⟩)

end Sys2Proof.Machine
end

section
/-! What EXEC of an instruction changes and what it leaves (41_stack_ops.md R91 to R94; 10_state.md
R32; 20_memory.md R55; 60_exceptions.md R151). -/

namespace Sys2Proof.Machine

/-- EXEC of an instruction answers a next state. -/
theorem exists_exec_eq_next (i : Instr) (s : State) : ∃ t, exec i s = .next t := by
  obtain ⟨-, heq⟩ | ⟨-, t, -, heq⟩ | ⟨-, c, -, heq⟩ := exec_outcomes i s
  · exact ⟨_, heq⟩
  · exact ⟨_, heq⟩
  · exact ⟨_, heq⟩

/-- Settles O26: a terminal state and the word start of an error keep the flag, and a successful
work writes it only in the eight instructions, which do not end in ERROR (10_state.md R32). -/
theorem overflowFlagWrittenOnlyByArithmetic : Obligations.OverflowFlagWrittenOnlyByArithmetic := by
  intro i s t hexec hcase
  obtain ⟨-, heq⟩ | ⟨-, u, heffect, heq⟩ | ⟨-, c, -, heq⟩ := exec_outcomes i s
  all_goals
    rw [heq] at hexec
    cases hexec
  · rfl
  · obtain hkept | hwrites := heffect.ovf
    · exact hkept
    · exact hcase.elim (fun hnot => absurd hwrites hnot) fun herror =>
        absurd herror (after_ne_error i)
  · rfl

/-- Settles O27: only the effect of SPEAK has an output, one announcement (10_state.md R43). -/
theorem onlySpeakAnnounces : Obligations.OnlySpeakAnnounces := by
  intro i s t hexec
  obtain ⟨-, heq⟩ | ⟨-, u, heffect, heq⟩ | ⟨-, c, -, heq⟩ := exec_outcomes i s
  all_goals
    rw [heq] at hexec
    cases hexec
  · exact ⟨.inl rfl, rfl, rfl, rfl⟩
  · exact ⟨heffect.outputs, heffect.pending, heffect.cfg, heffect.codec⟩
  · exact ⟨.inl rfl, rfl, rfl, rfl⟩

/-- Settles O29: the bounds are those of the effect, and an error leaves the stack of the word start
(20_memory.md R55). -/
theorem stackMovesAreBounded : Obligations.StackMovesAreBounded := by
  intro i s t hexec
  obtain ⟨-, heq⟩ | ⟨-, u, heffect, heq⟩ | ⟨-, c, -, heq⟩ := exec_outcomes i s
  all_goals
    rw [heq] at hexec
    cases hexec
  · exact ⟨Nat.le_add_right _ _, Nat.le_add_right _ _⟩
  · exact ⟨heffect.grows, heffect.shrinks⟩
  · exact ⟨Nat.le_add_right _ _, Nat.le_add_right _ _⟩

/-- Every instruction that may raise CAPACITY raises it on a full stack with a cell: only the pushes
and DUP may (20_memory.md R48). -/
theorem exec_of_full_of_capacity {i : Instr} {s : State} {x : Cell} {rest : List Cell}
    (hlisted : .capacity ∈ MayRaise i) (hrun : CanRun s) (hfull : Full s)
    (hstack : s.stack = x :: rest) : exec i s = .next (failed s .capacity) := by
  obtain ⟨act, hshape, hexec⟩ := exec_eq_runWord_shape i
  cases hshape with
  | push v _ => exact (hexec s).trans (runWord_of_canRun_error hrun (pushCell_of_full hfull))
  | dup =>
    rw [exec_dup_of_cons (stackFits_of_full hfull) hstack]
    exact runWord_pushCell_of_full x hrun hfull
  | none _ hcauses | arith _ _ hcauses | divisor _ _ hcauses | combine _ hcauses =>
    simp [hcauses] at hlisted
  | del | swp | hex | not | speak => exact absurd hlisted (by decide)

/-- Every instruction that may raise UNDERFLOW raises it on the empty stack: its work begins with a
Pop (20_memory.md R49). -/
theorem exec_of_nil_of_underflow {i : Instr} {s : State} (hlisted : .underflow ∈ MayRaise i)
    (hrun : CanRun s) (hstack : s.stack = []) : exec i s = .next (failed s .underflow) := by
  obtain ⟨act, hshape, hexec⟩ := exec_eq_runWord_shape i
  rw [hexec]
  cases hshape with
  | push _ hcauses | none _ hcauses => simp [hcauses] at hlisted
  | dup | del | swp | arith | divisor | combine | hex | not | speak =>
    exact runWord_withPop_of_nil hrun hstack

/-- Every instruction that may raise TYPE raises it on two characters that are no hex digits
(42_arithmetic.md R113; 43_logic_convert.md R132). -/
theorem exec_of_chr_of_type {i : Instr} {s : State} {c : Token} {rest : List Cell}
    (hlisted : .type ∈ MayRaise i) (hrun : CanRun s) (hchr : c.hexval = none)
    (hstack : s.stack = .chr c :: .chr c :: rest) : exec i s = .next (failed s .type) := by
  obtain ⟨act, hshape, hexec⟩ := exec_eq_runWord_shape i
  rw [hexec]
  cases hshape with
  | push _ hcauses | none _ hcauses => simp [hcauses] at hlisted
  | dup | del | swp => exact absurd hlisted (by decide)
  | arith | divisor | combine =>
    exact runWord_of_canRun_error hrun (withTwoInts_of_chr hstack (.inl ⟨c, rfl⟩))
  | hex => exact runWord_of_canRun_error hrun (withTwoDigits_of_hexval_none hstack (.inl hchr))
  | not | speak => exact runWord_of_canRun_error hrun (withPop_of_cons hstack)

/-- Every instruction that may raise DIVZERO raises it on two zeros (42_arithmetic.md R117, R119).
-/
theorem exec_of_zeros_of_divZero {i : Instr} {s : State} {rest : List Cell}
    (hlisted : .divZero ∈ MayRaise i) (hrun : CanRun s)
    (hstack : s.stack = .int 0#8 :: .int 0#8 :: rest) : exec i s = .next (failed s .divZero) := by
  obtain ⟨act, hshape, hexec⟩ := exec_eq_runWord_shape i
  cases hshape with
  | divisor f _ _ =>
    have hwork : withTwoInts (divisorWork f) s = .error .divZero :=
      (withTwoInts_of_ints hstack).trans (if_pos rfl)
    exact (hexec s).trans (runWord_of_canRun_error hrun hwork)
  | push _ hcauses | none _ hcauses | arith _ _ hcauses | combine _ hcauses =>
    simp [hcauses] at hlisted
  | dup | del | swp | hex | not | speak => exact absurd hlisted (by decide)

/-- No instruction lists a cause that is none of 60_exceptions.md R151's for instructions: NONE is
no error, and UNRECOGNIZED is for words. -/
theorem mayRaise_subset {i : Instr} {c : ErrCause} (h : c ∈ MayRaise i) :
    c ∈ [ErrCause.capacity, .underflow, .type, .divZero] := by
  obtain ⟨act, hshape, -⟩ := exec_eq_runWord_shape i
  cases hshape with
  | push _ hcauses | none _ hcauses | arith _ _ hcauses | divisor _ _ hcauses
  | combine _ hcauses =>
    rw [hcauses] at h
    revert c
    decide
  | dup | del | swp | hex | not | speak =>
    revert c
    decide

/-- The reset state with the given stack (10_state.md R45). -/
def resetWith (l : List Cell) : State := State.reset.setStack l

/-- The reset state with a stack of one cell and the depth 1. -/
def fullAtOne : State :=
  { resetWith [.int 0#8] with cfg := { referenceConfig with stackDepth := some 1 } }

/-- The stack of the reset state is unbounded, so that every stack is within its depth. -/
theorem stackFits_resetWith (l : List Cell) : StackFits (resetWith l) := fun _ h => nomatch h

/-- Settles O28: each listed cause is raised on a stack made for it (full, empty, two letters, two
zeros), and within its depth an error of the work has a listed cause (60_exceptions.md R151). -/
theorem causesAreExactlyTheListedOnes : Obligations.CausesAreExactlyTheListedOnes := by
  intro i c
  constructor
  · intro hlisted
    have hcases := mayRaise_subset hlisted
    simp only [List.mem_cons, List.not_mem_nil, or_false] at hcases
    obtain rfl | rfl | rfl | rfl := hcases
    · have hfull : Full fullAtOne := rfl
      exact ⟨fullAtOne, .inl rfl, stackFits_of_full hfull,
        exec_of_full_of_capacity hlisted (.inl rfl) hfull rfl⟩
    · exact ⟨resetWith [], .inl rfl, stackFits_resetWith _,
        exec_of_nil_of_underflow hlisted (.inl rfl) rfl⟩
    · exact ⟨resetWith [.chr .Z, .chr .Z], .inl rfl, stackFits_resetWith _,
        exec_of_chr_of_type hlisted (.inl rfl) (c := .Z) (by decide) rfl⟩
    · exact ⟨resetWith [.int 0#8, .int 0#8], .inl rfl, stackFits_resetWith _,
        exec_of_zeros_of_divZero hlisted (.inl rfl) rfl⟩
  · rintro ⟨s, hrun, hfits, hexec⟩
    obtain ⟨hterminal, -⟩ | ⟨-, t, -, heq⟩ | ⟨-, c', herror, heq⟩ := exec_outcomes i s
    · rw [(canRun_iff_not_terminal s).mp hrun] at hterminal
      exact absurd hterminal Bool.false_ne_true
    · rw [heq] at hexec
      have hrunState : after i = .error := congrArg State.run (Host.Outcome.next.inj hexec)
      exact absurd hrunState (after_ne_error i)
    · rw [heq] at hexec
      have hcause : c' = c := congrArg State.errCause (Host.Outcome.next.inj hexec)
      exact hcause ▸ herror.listed.resolve_right fun h => h.2 hfits

end Sys2Proof.Machine
end

section
/-! The invariant (10_state.md R33, R37; 40_codec.md R78; 60_exceptions.md R151), from power-on
through every transaction. -/

namespace Sys2Proof.Machine

/-- Everything EXEC of a word can do, recognised or not. -/
theorem execWord_outcomes (w : CodeWord) (s : State) :
    (s.run.terminal = true ∧ execWord w s = .next s) ∨
    (CanRun s ∧ ∃ i t, WorkEffect i s t ∧ execWord w s = .next (t.setRun (after i))) ∨
    (CanRun s ∧ ∃ c, c ≠ .none ∧ (c = .capacity → s.cfg.stackDepth ≠ none) ∧
      execWord w s = .next (failed s c)) := by
  cases hterminal : s.run.terminal with
  | true => exact .inl ⟨rfl, execWord_of_terminal w hterminal⟩
  | false =>
    have hrun : CanRun s := (canRun_iff_not_terminal s).mpr hterminal
    cases hdecode : decodeWith s.cfg.opmap s.cfg.charmap w with
    | error e =>
      exact .inr (.inr ⟨hrun, .unrecognized, by decide, (fun h => nomatch h),
        execWord_of_unrecognized hrun hdecode⟩)
    | ok i =>
      have hexecWord : execWord w s = exec i s := by rw [execWord, hdecode]
      rw [hexecWord]
      obtain ⟨h, -⟩ | ⟨-, t, heffect, heq⟩ | ⟨-, c, herror, heq⟩ := exec_outcomes i s
      · rw [hterminal] at h
        exact absurd h Bool.false_ne_true
      · exact .inr (.inl ⟨hrun, i, t, heffect, heq⟩)
      · refine .inr (.inr ⟨hrun, c, ?_, herror.finite, heq⟩)
        rintro rfl
        obtain hlisted | ⟨hcapacity, -⟩ := herror.listed
        · exact absurd (mayRaise_subset hlisted) (by decide)
        · cases hcapacity

/-- EXEC of a word answers a next state, with the matrices and the parameters of the word start. -/
theorem execWord_constants (w : CodeWord) (s : State) :
    ∃ t, execWord w s = .next t ∧ t.codec = s.codec ∧ t.cfg = s.cfg := by
  obtain ⟨-, heq⟩ | ⟨-, i, t, heffect, heq⟩ | ⟨-, c, -, -, heq⟩ := execWord_outcomes w s
  · exact ⟨_, heq, rfl, rfl⟩
  · exact ⟨_, heq, heffect.codec, heffect.cfg⟩
  · exact ⟨_, heq, rfl, rfl⟩

/-- EXEC of a word as a transaction adds only the returned run state to what the word does. -/
theorem issue_exec_of_next {w : CodeWord} {s t : State} (h : execWord w s = .next t) :
    issue (.exec w) s = .next (t.emit (.execReturned t.run)) := by
  rw [issue, h, returnRunState]

/-- Every transaction answers a next state, with the same matrices and parameters
(40_codec.md R78). -/
theorem issue_constants (tr : Transaction) (s : State) :
    ∃ t, issue tr s = .next t ∧ t.codec = s.codec ∧ t.cfg = s.cfg := by
  cases tr with
  | exec w =>
    obtain ⟨t, hexec, hcodec, hcfg⟩ := execWord_constants w s
    exact ⟨_, issue_exec_of_next hexec, hcodec, hcfg⟩
  | top | reset | enc d | dec r => exact ⟨_, rfl, rfl, rfl⟩

/-- Every step answers a next state, with the same matrices and parameters. -/
theorem step_constants (s : State) : ∃ t, step s = .next t ∧ t.codec = s.codec ∧ t.cfg = s.cfg := by
  cases hpending : s.pending with
  | nil => exact ⟨s, step_of_no_pending hpending, rfl, rfl⟩
  | cons tr rest =>
    rw [step_of_pending hpending]
    exact issue_constants tr (s.setPending rest)

/-- Settles O25: every transaction, and the lack of one, answers a next state
(60_exceptions.md R173). -/
theorem stepAlwaysAnswersANextState : Obligations.StepAlwaysAnswersANextState := by
  intro s
  obtain ⟨t, hstep, -, -⟩ := step_constants s
  exact ⟨t, hstep⟩

/-- Settles O32: no transaction writes the matrices or the parameters (10_state.md R28). -/
theorem constantsNeverChange : Obligations.ConstantsNeverChange := by
  intro s t hstep
  obtain ⟨u, heq, hconstants⟩ := step_constants s
  rw [heq] at hstep
  cases hstep
  exact hconstants

section
variable {s t : State}

/-- The invariant speaks only of the stack, the run state with its cause, and the constants. -/
theorem inv_of_eq (h : Inv s) (hrun : t.run = s.run) (hstack : t.stack = s.stack)
    (hcause : t.errCause = s.errCause) (hcodec : t.codec = s.codec) (hcfg : t.cfg = s.cfg) :
    Inv t := by
  obtain ⟨hfits, hmatches, hmatrices, hfinite⟩ := h
  refine ⟨?_, ?_, ?_, ?_⟩
  · rwa [StackFits, hcfg, hstack]
  · rwa [CauseMatchesRun, hcause, hrun]
  · rwa [CodecMatchesConfig, hcfg, hcodec]
  · rwa [CapacityOnlyFinite, hcause, hcfg]

/-- Outside ERROR, and within the depth, the invariant is that there is no cause and that the
matrices are the configuration's. -/
theorem inv_of_no_error (hfits : StackFits s) (hrun : s.run ≠ .error) (hcause : s.errCause = .none)
    (hcodec : CodecMatchesConfig s) : Inv s := by
  refine ⟨hfits, ⟨fun _ => hrun, fun _ => hcause⟩, hcodec, fun hcapacity => ?_⟩
  rw [hcause] at hcapacity
  cases hcapacity

/-- Where EXEC has effect there is no cause yet (10_state.md R37). -/
theorem errCause_of_canRun (h : Inv s) (hrun : CanRun s) : s.errCause = .none := by
  refine h.causeMatchesRun.mpr fun herror => ?_
  rw [CanRun, herror] at hrun
  simp at hrun

/-- A successful work keeps the invariant. -/
theorem inv_setRun_of_workEffect {i : Instr} (h : Inv s) (hrun : CanRun s)
    (heffect : WorkEffect i s t) : Inv (t.setRun (after i)) := by
  refine inv_of_no_error (heffect.fits h.stackFits) (after_ne_error i) ?_ ?_
  · exact heffect.errCause.trans (errCause_of_canRun h hrun)
  · rw [CodecMatchesConfig, State.setRun_cfg, State.setRun_codec, heffect.cfg, heffect.codec]
    exact h.codecMatchesConfig

/-- Entry to ERROR with a cause keeps the invariant (60_exceptions.md R156). -/
theorem inv_failed {c : ErrCause} (h : Inv s) (hc : c ≠ .none)
    (hfinite : c = .capacity → s.cfg.stackDepth ≠ none) : Inv (failed s c) :=
  ⟨h.stackFits, ⟨fun hnone => absurd hnone hc, fun hrun => absurd rfl hrun⟩, h.codecMatchesConfig,
    hfinite⟩

/-- RESET gives a state with the invariant: the empty stack fits (70_reset_and_hazards.md R176). -/
theorem inv_resetMachine (h : Inv s) : Inv (resetMachine s) :=
  inv_of_no_error (fun _ _ => Nat.zero_le _) (show RunState.idle ≠ .error by decide) rfl
    h.codecMatchesConfig

/-- Every output keeps the invariant. -/
theorem inv_emit (h : Inv s) (o : Output) : Inv (s.emit o) := inv_of_eq h rfl rfl rfl rfl rfl

/-- EXEC of a word keeps the invariant. -/
theorem execWord_inv {w : CodeWord} (h : Inv s) (hexec : execWord w s = .next t) : Inv t := by
  obtain ⟨-, heq⟩ | ⟨hrun, i, u, heffect, heq⟩ | ⟨-, c, hc, hfinite, heq⟩ := execWord_outcomes w s
  all_goals
    rw [heq] at hexec
    cases hexec
  · exact h
  · exact inv_setRun_of_workEffect h hrun heffect
  · exact inv_failed h hc hfinite

/-- Every transaction keeps the invariant. -/
theorem issue_inv {tr : Transaction} (h : Inv s) (hissue : issue tr s = .next t) : Inv t := by
  cases tr with
  | exec w =>
    obtain ⟨u, hexec, -, -⟩ := execWord_constants w s
    rw [issue_exec_of_next hexec] at hissue
    cases hissue
    exact inv_emit (execWord_inv h hexec) _
  | reset =>
    cases hissue
    exact inv_resetMachine h
  | top | enc d | dec r =>
    cases hissue
    exact inv_emit h _

end

/-- Settles O34: the host's queue is not in the invariant, and every transaction keeps it. -/
theorem everyStepKeepsTheInvariant : Obligations.EveryStepKeepsTheInvariant := by
  intro s t h hstep
  cases hpending : s.pending with
  | nil =>
    rw [step_of_no_pending hpending] at hstep
    cases hstep
    exact h
  | cons tr rest =>
    rw [step_of_pending hpending] at hstep
    exact issue_inv (inv_of_eq (t := s.setPending rest) h rfl rfl rfl rfl rfl) hstep

/-- An accepted power-on answers the reset values, with the configuration and its matrices. -/
theorem powerOn_eq_ok {c : Config} {s : State} (h : powerOn c = .ok s) :
    ∃ M, buildMatrices c = some M ∧ s = { State.reset with codec := M, cfg := c } := by
  unfold powerOn at h
  cases hbuild : buildMatrices c with
  | none =>
    rw [hbuild] at h
    cases h
  | some M =>
    rw [hbuild] at h
    dsimp only at h
    split at h
    · cases h
      exact ⟨M, rfl, rfl⟩
    · cases h

/-- Settles O31: this hardware's parameters meet the constraints of 00_scope.md R11, and power-on
with accepted ones writes only the parameters and their matrices (70_reset_and_hazards.md R177). -/
theorem powerOnGivesResetState : Obligations.PowerOnGivesResetState := by
  refine ⟨?_, fun c s h => ?_⟩
  · have hbuild : buildMatrices referenceConfig = some (matricesOf parityReference) := rfl
    have hwf : referenceConfig.wf = true := by decide
    rw [powerOn, hbuild]
    exact if_pos hwf
  · obtain ⟨M, hbuild, rfl⟩ := powerOn_eq_ok h
    exact ⟨rfl, rfl, rfl, rfl, rfl, hbuild⟩

/-- A state with the reset values and the matrices of its configuration has the invariant. -/
theorem inv_of_reset_values {M : Matrices} {c : Config} (hbuild : buildMatrices c = some M) :
    Inv { State.reset with codec := M, cfg := c } :=
  inv_of_no_error (fun _ _ => Nat.zero_le _) (show RunState.idle ≠ .error by decide) rfl hbuild

/-- Settles O33: the reset state and every accepted power-on have the reset values
(10_state.md R45). -/
theorem invariantHoldsAtPowerOn : Obligations.InvariantHoldsAtPowerOn := by
  refine ⟨inv_of_reset_values (M := matricesOf parityReference) (c := referenceConfig) rfl,
    fun c s h => ?_⟩
  obtain ⟨M, hbuild, rfl⟩ := powerOn_eq_ok h
  exact inv_of_reset_values hbuild

end Sys2Proof.Machine
end

section
/-! Noninterference (10_state.md R32, R37): a relation on states that fixes what EXEC reads and that
every update keeps is kept by every work, every transaction and every step. -/

namespace Sys2Proof.Machine

/-- The relation fixes the stack and the parameters, which are all that work reads, and the updates
that work makes keep it. -/
structure WorkCongruence (R : State → State → Prop) : Prop where
  stack_eq {s u : State} : R s u → s.stack = u.stack
  cfg_eq {s u : State} : R s u → s.cfg = u.cfg
  setStack {s u : State} (l : List Cell) : R s u → R (s.setStack l) (u.setStack l)
  setOvf {s u : State} (b : Bool) : R s u → R (s.setOvf b) (u.setOvf b)
  emit {s u : State} (o : Output) : R s u → R (s.emit o) (u.emit o)

/-- The relation also fixes what a step reads, and the updates of a step keep it. -/
structure StepCongruence (R : State → State → Prop) : Prop extends WorkCongruence R where
  run_eq {s u : State} : R s u → s.run = u.run
  codec_eq {s u : State} : R s u → s.codec = u.codec
  pending_eq {s u : State} : R s u → s.pending = u.pending
  setRun {s u : State} (r : RunState) : R s u → R (s.setRun r) (u.setRun r)
  setErrCause {s u : State} (c : ErrCause) : R s u → R (s.setErrCause c) (u.setErrCause c)
  setPending {s u : State} (l : List Transaction) : R s u → R (s.setPending l) (u.setPending l)

/-- Two answers of work are alike: related states, or the same cause. -/
def AlikeWork (R : State → State → Prop) (a b : Except ErrCause State) : Prop :=
  (∃ t v, a = .ok t ∧ b = .ok v ∧ R t v) ∨ ∃ c, a = .error c ∧ b = .error c

/-- Two answers of a step are alike: related next states. -/
def AlikeNext (R : State → State → Prop) (a b : Result) : Prop :=
  ∃ t v, a = .next t ∧ b = .next v ∧ R t v

/-- On related states the work answers alike. -/
def Respects (R : State → State → Prop) (act : Act) : Prop :=
  ∀ s u, R s u → AlikeWork R (act s) (act u)

section
variable {R : State → State → Prop}

theorem alikeWork_ok {t v : State} (h : R t v) : AlikeWork R (.ok t) (.ok v) :=
  .inl ⟨t, v, rfl, rfl, h⟩

theorem alikeWork_error (c : ErrCause) : AlikeWork R (.error c) (.error c) := .inr ⟨c, rfl, rfl⟩

theorem alikeNext_next {t v : State} (h : R t v) : AlikeNext R (.next t) (.next v) :=
  ⟨t, v, rfl, rfl, h⟩

theorem respects_error (c : ErrCause) : Respects R fun _ => .error c :=
  fun _ _ _ => alikeWork_error c

theorem respects_noWork : Respects R noWork := fun _ _ h => alikeWork_ok h

theorem respects_bind {f g : Act} (hf : Respects R f) (hg : Respects R g) :
    Respects R fun s => (f s).bind g := by
  intro s u h
  obtain ⟨t, v, hs, hu, htv⟩ | ⟨c, hs, hu⟩ := hf s u h
  · simp only [hs, hu]
    exact hg t v htv
  · simp only [hs, hu]
    exact alikeWork_error c

variable (hR : WorkCongruence R)
include hR

theorem stackFull_congr {s u : State} (h : R s u) : stackFull s = stackFull u := by
  rw [stackFull, stackFull, hR.stack_eq h, hR.cfg_eq h]

theorem respects_pushCell (v : Cell) : Respects R (pushCell v) := by
  intro s u h
  rw [pushCell, pushCell, stackFull_congr hR h, hR.stack_eq h]
  split
  · exact alikeWork_error .capacity
  · exact alikeWork_ok (hR.setStack _ h)

theorem respects_withPop {k : Cell → Act} (hk : ∀ v, Respects R (k v)) :
    Respects R (withPop k) := by
  intro s u h
  obtain ⟨hstack, hact⟩ | ⟨v, rest, hstack, hact⟩ := withPop_cases k s
  · rw [hact, withPop_of_nil ((hR.stack_eq h).symm.trans hstack)]
    exact alikeWork_error .underflow
  · rw [hact, withPop_of_cons ((hR.stack_eq h).symm.trans hstack)]
    exact hk v _ _ (hR.setStack rest h)

theorem respects_withTwo {k : Cell → Cell → Act} (hk : ∀ x y, Respects R (k x y)) :
    Respects R (withTwo k) :=
  respects_withPop hR fun x => respects_withPop hR (hk x)

theorem respects_withOneInt {k : Byte → Act} (hk : ∀ a, Respects R (k a)) :
    Respects R (withOneInt k) := by
  refine respects_withPop hR fun v => ?_
  cases v with
  | int a => exact hk a
  | chr _ => exact respects_error .type

theorem respects_withTwoInts {k : Byte → Byte → Act} (hk : ∀ a b, Respects R (k a b)) :
    Respects R (withTwoInts k) := by
  refine respects_withTwo hR fun x y => ?_
  cases x with
  | int a =>
    cases y with
    | int b => exact hk a b
    | chr _ => exact respects_error .type
  | chr _ => cases y <;> exact respects_error .type

theorem respects_withTwoDigits {k : Nat → Nat → Act} (hk : ∀ a b, Respects R (k a b)) :
    Respects R (withTwoDigits k) := by
  refine respects_withTwo hR fun x y s u h => ?_
  rw [onDigits, onDigits]
  split
  · exact hk _ _ s u h
  · exact alikeWork_error .type
  · exact alikeWork_error .type
  · exact alikeWork_error .type

theorem respects_writeResult (r : Int) : Respects R (writeResult r) :=
  fun _ _ h => respects_pushCell hR _ _ _ (hR.setOvf (overflows r) h)

theorem respects_divisorWork (f : Byte → Byte → Int) (x y : Byte) :
    Respects R (divisorWork f x y) := by
  intro s u h
  rw [divisorWork, divisorWork]
  split
  · exact alikeWork_error .divZero
  · exact respects_writeResult hR _ s u h

theorem respects_speakWork (n : Byte) : Respects R (speakWork n) := by
  intro s u h
  rw [speakWork, speakWork, hR.stack_eq h]
  split
  · exact alikeWork_error .underflow
  · exact alikeWork_ok (hR.emit _ (hR.setStack _ h))

/-- The work of every shape keeps the relation. -/
theorem respects_of_shape {i : Instr} {act : Act} (h : WorkShape i act) : Respects R act := by
  cases h with
  | push v _ => exact respects_pushCell hR v
  | none _ _ => exact respects_noWork
  | dup =>
    exact respects_withPop hR fun x =>
      respects_bind (respects_pushCell hR x) (respects_pushCell hR x)
  | del => exact respects_withPop hR fun _ => respects_noWork
  | swp =>
    exact respects_withTwo hR fun x y =>
      respects_bind (respects_pushCell hR x) (respects_pushCell hR y)
  | arith _ _ _ => exact respects_withTwoInts hR fun _ _ => respects_writeResult hR _
  | divisor f _ _ => exact respects_withTwoInts hR (respects_divisorWork hR f)
  | combine _ _ => exact respects_withTwoInts hR fun _ _ => respects_pushCell hR _
  | hex => exact respects_withTwoDigits hR fun _ _ => respects_pushCell hR _
  | not => exact respects_withOneInt hR fun _ => respects_pushCell hR _
  | speak => exact respects_withOneInt hR (respects_speakWork hR)

end

section
variable {R : State → State → Prop} (hR : StepCongruence R) {s u : State} (h : R s u)
include hR h

/-- The EXEC frame keeps the relation when its work does. -/
theorem runWord_alike (r : RunState) {act : Act} (hact : Respects R act) :
    AlikeNext R (runWord r act s) (runWord r act u) := by
  have hrun : s.run = u.run := hR.run_eq h
  cases hterminal : u.run.terminal with
  | true =>
    rw [runWord_of_terminal hterminal, runWord_of_terminal (hrun ▸ hterminal)]
    exact alikeNext_next h
  | false =>
    obtain ⟨t, v, hs, hu, htv⟩ | ⟨c, hs, hu⟩ := hact s u h
    · rw [runWord_of_ok hterminal hu, runWord_of_ok (hrun ▸ hterminal) hs]
      exact alikeNext_next (hR.setRun r htv)
    · rw [runWord_of_error hterminal hu, runWord_of_error (hrun ▸ hterminal) hs]
      exact alikeNext_next (hR.setRun .error (hR.setErrCause c h))

/-- EXEC of an instruction keeps the relation. -/
theorem exec_alike (i : Instr) : AlikeNext R (exec i s) (exec i u) := by
  obtain ⟨act, hshape, hexec⟩ := exec_eq_runWord_shape i
  rw [hexec, hexec]
  exact runWord_alike hR h _ (respects_of_shape hR.toWorkCongruence hshape)

/-- EXEC of a word keeps the relation. -/
theorem execWord_alike (w : CodeWord) : AlikeNext R (execWord w s) (execWord w u) := by
  rw [execWord, execWord, hR.cfg_eq h]
  split
  · exact exec_alike hR h _
  · exact runWord_alike hR h _ (respects_error .unrecognized)

/-- RESET keeps the relation. -/
theorem resetMachine_alike : R (resetMachine s) (resetMachine u) :=
  hR.setErrCause .none (hR.setOvf false (hR.setStack [] (hR.setRun .idle h)))

/-- Every transaction keeps the relation, and returns the same value. -/
theorem issue_alike (tr : Transaction) : AlikeNext R (issue tr s) (issue tr u) := by
  cases tr with
  | exec w =>
    obtain ⟨t, v, hs, hu, htv⟩ := execWord_alike hR h w
    rw [issue_exec_of_next hs, issue_exec_of_next hu, hR.run_eq htv]
    exact alikeNext_next (hR.emit _ htv)
  | top =>
    have hview : topView s = topView u := by
      rw [topView, topView, topCell, topCell, hR.stack_eq h]
    rw [issue, issue, hview]
    exact alikeNext_next (hR.emit _ h)
  | reset => exact alikeNext_next (resetMachine_alike hR h)
  | enc d =>
    rw [issue, issue, hR.codec_eq h]
    exact alikeNext_next (hR.emit _ h)
  | dec r =>
    rw [issue, issue, hR.codec_eq h]
    exact alikeNext_next (hR.emit _ h)

/-- Every step keeps the relation. -/
theorem step_alike : AlikeNext R (step s) (step u) := by
  cases hpending : s.pending with
  | nil =>
    rw [step_of_no_pending hpending, step_of_no_pending ((hR.pending_eq h).symm.trans hpending)]
    exact alikeNext_next h
  | cons tr rest =>
    rw [step_of_pending hpending, step_of_pending ((hR.pending_eq h).symm.trans hpending)]
    exact issue_alike hR (hR.setPending rest h) tr

end

/-- Equal but for the error cause. -/
def EqualButErrCause (s u : State) : Prop := { u with errCause := s.errCause } = s

/-- Equal but for the overflow flag. -/
def EqualButOvf (s u : State) : Prop := { u with ovf := s.ovf } = s

/-- Equal but for the run state. -/
def EqualButRun (s u : State) : Prop := { u with run := s.run } = s

/-- A step reads no error cause, and writes it without reading it. -/
theorem stepCongruence_equalButErrCause : StepCongruence EqualButErrCause where
  stack_eq h := (congrArg State.stack h).symm
  cfg_eq h := (congrArg State.cfg h).symm
  setStack l h := congrArg (State.setStack · l) h
  setOvf b h := congrArg (State.setOvf · b) h
  emit o h := congrArg (State.emit · o) h
  run_eq h := (congrArg State.run h).symm
  codec_eq h := (congrArg State.codec h).symm
  pending_eq h := (congrArg State.pending h).symm
  setRun r h := congrArg (State.setRun · r) h
  setErrCause c h := (congrArg (State.setErrCause · c) h :)
  setPending l h := congrArg (State.setPending · l) h

/-- A step reads no overflow flag, and writes it without reading it. -/
theorem stepCongruence_equalButOvf : StepCongruence EqualButOvf where
  stack_eq h := (congrArg State.stack h).symm
  cfg_eq h := (congrArg State.cfg h).symm
  setStack l h := congrArg (State.setStack · l) h
  setOvf b h := (congrArg (State.setOvf · b) h :)
  emit o h := congrArg (State.emit · o) h
  run_eq h := (congrArg State.run h).symm
  codec_eq h := (congrArg State.codec h).symm
  pending_eq h := (congrArg State.pending h).symm
  setRun r h := congrArg (State.setRun · r) h
  setErrCause c h := congrArg (State.setErrCause · c) h
  setPending l h := congrArg (State.setPending · l) h

/-- Work reads no run state. -/
theorem workCongruence_equalButRun : WorkCongruence EqualButRun where
  stack_eq h := (congrArg State.stack h).symm
  cfg_eq h := (congrArg State.cfg h).symm
  setStack l h := congrArg (State.setStack · l) h
  setOvf b h := congrArg (State.setOvf · b) h
  emit o h := congrArg (State.emit · o) h

/-- Settles O35: equality but for the error cause is a relation that every step keeps
(10_state.md R37). -/
theorem errorCauseHasNoInfluence : Obligations.ErrorCauseHasNoInfluence := by
  intro s c
  have hrelated : EqualButErrCause s { s with errCause := c } := rfl
  exact step_alike stepCongruence_equalButErrCause hrelated

/-- Settles O36: equality but for the overflow flag is a relation that every step keeps
(10_state.md R32). -/
theorem overflowFlagHasNoInfluence : Obligations.OverflowFlagHasNoInfluence := by
  intro s b
  have hrelated : EqualButOvf s { s with ovf := b } := rfl
  exact step_alike stepCongruence_equalButOvf hrelated

/-- States that are equal but for the run state are equal once it is set. -/
theorem setRun_eq_of_equalButRun {s u : State} (h : EqualButRun s u) (r : RunState) :
    s.setRun r = u.setRun r :=
  (congrArg (State.setRun · r) h).symm

/-- The EXEC frame does not tell apart two run states that are not terminal. -/
theorem runWord_eq_of_equalButRun {r : RunState} {act : Act} {s u : State}
    (hact : Respects EqualButRun act) (hs : s.run.terminal = false) (hu : u.run.terminal = false)
    (h : EqualButRun s u) : runWord r act s = runWord r act u := by
  obtain ⟨t, v, hsAct, huAct, htv⟩ | ⟨c, hsAct, huAct⟩ := hact s u h
  · rw [runWord_of_ok hs hsAct, runWord_of_ok hu huAct, setRun_eq_of_equalButRun htv]
  · rw [runWord_of_error hs hsAct, runWord_of_error hu huAct]
    exact congrArg Host.Outcome.next
      (congrArg (State.setErrCause · c) (setRun_eq_of_equalButRun h .error))

/-- Settles O24: a successful work leaves the run state of its instruction and a failed one ERROR,
and no work reads whether the machine was IDLE or RUNNING (41_stack_ops.md R91). -/
theorem execLeavesRunningStoppedOrError : Obligations.ExecLeavesRunningStoppedOrError := by
  refine ⟨fun i s hrun => ?_, fun i s => ?_⟩
  · obtain ⟨hterminal, -⟩ | ⟨-, t, -, heq⟩ | ⟨-, c, -, heq⟩ := exec_outcomes i s
    · rw [(canRun_iff_not_terminal s).mp hrun] at hterminal
      exact absurd hterminal Bool.false_ne_true
    · exact ⟨_, heq, .inr rfl⟩
    · exact ⟨_, heq, .inl rfl⟩
  · obtain ⟨act, hshape, hexec⟩ := exec_eq_runWord_shape i
    rw [hexec, hexec]
    exact runWord_eq_of_equalButRun (respects_of_shape workCongruence_equalButRun hshape)
      rfl rfl rfl

end Sys2Proof.Machine
end

section
/-! The driver (60_exceptions.md R169; log 13): it does to the stack machine what feeding the
forwarded data words does, since DEC leaves the stack machine alone and announces nothing. -/

namespace Sys2Proof.Machine

/-- The announcements of a longer record. -/
theorem announcements_append (os os' : List Output) :
    announcements (os ++ os') = announcements os ++ announcements os' := by
  induction os with
  | nil => rfl
  | cons o os ih => cases o <;> simp [announcements, ih]

/-- Equal but for outputs that are no announcements. -/
structure SameAnnouncements (s u : State) : Prop where
  rest : { u with outputs := s.outputs } = s
  texts : announcements s.outputs = announcements u.outputs

/-- A step reads no outputs. -/
theorem stepCongruence_sameAnnouncements : StepCongruence SameAnnouncements where
  stack_eq h := (congrArg State.stack h.rest).symm
  cfg_eq h := (congrArg State.cfg h.rest).symm
  setStack l h := ⟨congrArg (State.setStack · l) h.rest, h.texts⟩
  setOvf b h := ⟨congrArg (State.setOvf · b) h.rest, h.texts⟩
  emit o h := ⟨congrArg (State.emit · o) h.rest, by simp [announcements_append, h.texts]⟩
  run_eq h := (congrArg State.run h.rest).symm
  codec_eq h := (congrArg State.codec h.rest).symm
  pending_eq h := (congrArg State.pending h.rest).symm
  setRun r h := ⟨congrArg (State.setRun · r) h.rest, h.texts⟩
  setErrCause c h := ⟨congrArg (State.setErrCause · c) h.rest, h.texts⟩
  setPending l h := ⟨congrArg (State.setPending · l) h.rest, h.texts⟩

/-- States with the same announcements have the same stack machine state. -/
theorem smState_eq_of_sameAnnouncements {s u : State} (h : SameAnnouncements s u) :
    smState s = smState u :=
  (congrArg smState h.rest).symm

/-- The answer of DEC is no announcement. -/
theorem sameAnnouncements_emit_decReturned {s u : State} (h : SameAnnouncements s u)
    (d : DataWord) (o : DecodeOutcome) : SameAnnouncements (s.emit (.decReturned d o)) u := by
  refine ⟨congrArg (State.emit · (.decReturned d o)) h.rest, ?_⟩
  rw [State.emit_outputs, announcements_append, h.texts]
  exact List.append_nil _

/-- After STOPPED or ERROR nothing more is fed. -/
theorem feed_of_terminal {s : State} (ws : List CodeWord) (h : s.run.terminal = true) :
    feed ws s = .next s := by
  cases ws with
  | nil => rfl
  | cons w ws => rw [feed, if_pos h]

/-- After STOPPED or ERROR nothing more is driven. -/
theorem drive_of_terminal {s : State} (rs : List ChannelWord) (h : s.run.terminal = true) :
    drive rs s = .next s := by
  cases rs with
  | nil => rfl
  | cons r rs => rw [drive, if_pos h]

/-- A received word is decoded, and its data word, if there is one to forward, executed. -/
theorem driveWord_eq_forward (r : ChannelWord) (s : State) :
    driveWord r s = forward (forwarded s.codec r)
      (s.emit (.decReturned (dec s.codec r).1 (dec s.codec r).2)) := by
  unfold driveWord issue onNext
  rfl

/-- From states with the same announcements, the driver loop answers as feeding the forwarded words
does. -/
theorem drive_alike_feed {s u : State} (h : SameAnnouncements s u) (received : List ChannelWord) :
    AlikeNext SameAnnouncements (drive received s)
      (feed (received.filterMap (forwarded s.codec)) u) := by
  induction received generalizing s u with
  | nil => exact alikeNext_next h
  | cons r rs ih =>
    have hrun : s.run = u.run := stepCongruence_sameAnnouncements.run_eq h
    cases hterminal : s.run.terminal with
    | true =>
      rw [drive_of_terminal _ hterminal, feed_of_terminal _ (hrun ▸ hterminal)]
      exact alikeNext_next h
    | false =>
      have hdec := sameAnnouncements_emit_decReturned h (dec s.codec r).1 (dec s.codec r).2
      rw [drive, hterminal, if_neg Bool.false_ne_true, driveWord_eq_forward]
      cases hforward : forwarded s.codec r with
      | none =>
        rw [List.filterMap_cons_none hforward]
        exact ih hdec
      | some w =>
        obtain ⟨t, v, hs, hu, htv⟩ := issue_alike stepCongruence_sameAnnouncements hdec (.exec w)
        obtain ⟨t', ht', hcodec, -⟩ := issue_constants (.exec w)
          (s.emit (.decReturned (dec s.codec r).1 (dec s.codec r).2))
        have hsame : t' = t := Host.Outcome.next.inj (ht'.symm.trans hs)
        have hkept : s.codec = t.codec := (hsame ▸ hcodec).symm
        rw [List.filterMap_cons_some hforward, feed, ← hrun, hterminal,
          if_neg Bool.false_ne_true, forward, hs, hu, hkept]
        exact ih htv

/-- Settles O11: feeding the forwarded words from the same state is the driver loop without the
answers of DEC (60_exceptions.md R169). -/
theorem driverForwardsGoodWordsInOrder : Obligations.DriverForwardsGoodWordsInOrder := by
  intro s received
  obtain ⟨t, u, hdrive, hfeed, htu⟩ := drive_alike_feed (u := s) ⟨rfl, rfl⟩ received
  exact ⟨t, u, hdrive, hfeed, smState_eq_of_sameAnnouncements htu, htu.texts⟩

/-- The places where two channel words differ. -/
def differences (a b : ChannelWord) : Finset (Fin 11) :=
  Finset.univ.filter fun i => elem (a ^^^ b) i = true

/-- The distance of two words is the number of places where they differ. -/
theorem card_differences (a b : ChannelWord) : (differences a b).card = distance a b := by
  have hnodup := (List.nodup_finRange 11).filter (id ∘ fun i : Fin 11 => elem (a ^^^ b) i)
  rw [distance, elems_eq_map_finRange, List.filter_map, List.length_map,
    ← List.toFinset_card_of_nodup hnodup]
  exact congrArg Finset.card (Finset.ext fun i => by simp [differences])

/-- A place is no difference exactly when the words agree there. -/
theorem mem_differences {a b : ChannelWord} {i : Fin 11} :
    i ∈ differences a b ↔ elem (a ^^^ b) i = true := by
  simp [differences]

/-- The received word is the sent one with the places of the difference flipped. -/
theorem elem_received (a b : ChannelWord) (i : Fin 11) :
    elem b i = (elem a i ^^ decide (i ∈ differences a b)) := by
  simp only [mem_differences, elem_xor, Bool.decide_eq_true, ← Bool.xor_assoc, Bool.xor_self,
    Bool.false_xor]

/-- Words at distance 0 are equal. -/
theorem eq_of_distance_eq_zero {a b : ChannelWord} (h : distance a b = 0) : b = a := by
  rw [← card_differences, Finset.card_eq_zero] at h
  exact eq_of_elem_eq fun i => by simp [elem_received a b i, h]

/-- Words at distance 1 differ by one flip. -/
theorem exists_flipAt_of_distance_eq_one {a b : ChannelWord} (h : distance a b = 1) :
    ∃ j : Fin 11, b = flipAt a j := by
  rw [← card_differences, Finset.card_eq_one] at h
  obtain ⟨j, hj⟩ := h
  exact ⟨j, eq_of_elem_eq fun i => by simp [elem_received a b i, hj, elem_flipAt]⟩

/-- Words at distance 2 differ by two flips. -/
theorem exists_flipAt_flipAt_of_distance_eq_two {a b : ChannelWord} (h : distance a b = 2) :
    ∃ i j : Fin 11, i ≠ j ∧ b = flipAt (flipAt a i) j := by
  rw [← card_differences, Finset.card_eq_two] at h
  obtain ⟨i, j, hij, hdiff⟩ := h
  refine ⟨i, j, hij, eq_of_elem_eq fun k => ?_⟩
  rw [elem_received a b k, hdiff, elem_flipAt, elem_flipAt, Bool.xor_assoc]
  by_cases hi : k = i
  · simp [hi, hij]
  · simp [hi]

/-- The data word of a CORRECTED outcome is forwarded. -/
theorem forwarded_of_corrected {M : Matrices} {r : ChannelWord} {d : DataWord}
    (h : dec M r = (d, .corrected)) : forwarded M r = some d := by
  unfold forwarded
  simp only [h]

/-- The data word of a VALID outcome is forwarded. -/
theorem forwarded_of_valid {M : Matrices} {r : ChannelWord} {d : DataWord}
    (h : dec M r = (d, .valid)) : forwarded M r = some d := by
  unfold forwarded
  simp only [h]

/-- Nothing is forwarded of an UNCORRECTABLE outcome. -/
theorem forwarded_of_uncorrectable {M : Matrices} {r : ChannelWord}
    (h : (dec M r).2 = .uncorrectable) : forwarded M r = none := by
  unfold forwarded
  simp only [h]

section
variable {P : ParityBlock} (hnodup : (matricesOf P).ht.toList.Nodup)
  (hzero : 0#4 ∉ (matricesOf P).ht.toList)
include hnodup hzero

/-- A word with at most one corrupted bit is forwarded as it was sent (40_codec.md R86). -/
theorem forwarded_of_distance_le_one {w : CodeWord} {r : ChannelWord}
    (h : distance (enc (matricesOf P) w) r ≤ 1) : forwarded (matricesOf P) r = some w := by
  obtain hsame | hone := Nat.le_one_iff_eq_zero_or_eq_one.mp h
  · rw [eq_of_distance_eq_zero hsame]
    exact forwarded_of_valid (roundTripIsValid P w)
  · obtain ⟨j, rfl⟩ := exists_flipAt_of_distance_eq_one hone
    exact forwarded_of_corrected (singleErrorIsCorrected P hnodup hzero w j)

/-- A word with two corrupted bits is not forwarded (40_codec.md R86). -/
theorem forwarded_of_distance_eq_two {w : CodeWord} {r : ChannelWord}
    (h : distance (enc (matricesOf P) w) r = 2) : forwarded (matricesOf P) r = none := by
  obtain ⟨i, j, hij, rfl⟩ := exists_flipAt_flipAt_of_distance_eq_two h
  exact forwarded_of_uncorrectable (doubleErrorIsDetected P hnodup hzero w i j hij)

/-- What is forwarded of the received words is the program. -/
theorem filterMap_forwarded_of_received {prog : List CodeWord} {received : List ChannelWord}
    (h : Received (matricesOf P) prog received) :
    received.filterMap (forwarded (matricesOf P)) = prog := by
  induction h with
  | done => rfl
  | good w ws r rs hdist _ ih =>
    rw [List.filterMap_cons_some (forwarded_of_distance_le_one hnodup hzero hdist), ih]
  | again w ws r rs hdist _ ih =>
    rw [List.filterMap_cons_none (forwarded_of_distance_eq_two hnodup hzero hdist), ih]

end

/-- Settles O10: the words the driver forwards are the program, since single errors are corrected
and double errors dropped (60_exceptions.md R169, R170). -/
theorem noisyRunEqualsCleanRun : Obligations.NoisyRunEqualsCleanRun := by
  intro P hnodup hzero s prog received hcodec hreceived
  obtain ⟨t, u, hdrive, hfeed, hsame⟩ := driverForwardsGoodWordsInOrder s received
  rw [hcodec, filterMap_forwarded_of_received hnodup hzero hreceived] at hfeed
  exact ⟨t, u, hdrive, hfeed, hsame⟩

end Sys2Proof.Machine
end

section
/-! Encoding and decoding under any two code maps (30_encoding.md R63, R64, R69), and under this
hardware's. -/

namespace Sys2Proof

/-- A literal is encoded and well formed without a map; every other instruction is looked up in the
two maps (30_encoding.md R64, R66, R67). -/
theorem encodeWith_cases (opmap charmap : CodeMap) (i : Instr) :
    (∃ n, i = .push n) ∨
    (encodeWith opmap charmap i = (patternOf opmap i).or (patternOf charmap i) ∧
      i.wf opmap charmap = (opmap.any (fun e => e.2 == i) || charmap.any (fun e => e.2 == i))) := by
  cases i with
  | push n => exact .inl ⟨n, rfl⟩
  | _ => exact .inr ⟨rfl, rfl⟩

/-- A pattern given for an instruction is that of an entry. -/
theorem mem_of_patternOf {m : CodeMap} {i : Instr} {w : CodeWord} (h : patternOf m i = some w) :
    (w, i) ∈ m := by
  obtain ⟨⟨w', i'⟩, hfind, rfl⟩ := Option.map_eq_some_iff.mp h
  have haction : i' = i := by simpa using List.find?_some hfind
  exact haction ▸ List.mem_of_find?_eq_some hfind

/-- An instruction that a map holds has a pattern. -/
theorem patternOf_isSome (m : CodeMap) (i : Instr) :
    (patternOf m i).isSome = m.any fun e => e.2 == i := by
  rw [patternOf, Option.isSome_map, List.isSome_find?]

/-- The word `00nnnn` is the literal `n` under all maps (30_encoding.md R64). -/
theorem decodeWith_push (opmap charmap : CodeMap) (n : BitVec 4) :
    decodeWith opmap charmap (0b00#2 ++ n) = .ok (.push n) := by
  have hclass : classOf (0b00#2 ++ n) = .operand := Laws.EncodedClass.push n
  have hliteral : (0b00#2 ++ n).extractLsb' 0 4 = n := BitVec.extractLsb'_append_eq_right
  rw [decodeWith_of_operand _ _ hclass, hliteral]

/-- A map that holds an instruction makes it well formed. -/
theorem wf_of_mem {opmap charmap : CodeMap} {e : CodeWord × Instr}
    (he : e ∈ opmap ∨ e ∈ charmap) : e.2.wf opmap charmap = true := by
  obtain ⟨n, hpush⟩ | ⟨-, hwf⟩ := encodeWith_cases opmap charmap e.2
  · rw [hpush]
    rfl
  · rw [hwf, Bool.or_eq_true, List.any_eq_true, List.any_eq_true]
    exact he.imp (fun h => ⟨e, h, beq_self_eq_true e.2⟩) fun h => ⟨e, h, beq_self_eq_true e.2⟩

/-- A lookup gives only entries. -/
theorem mem_of_lookupCode {m : CodeMap} {w : CodeWord} {i : Instr} (h : lookupCode m w = .ok i) :
    (w, i) ∈ m := by
  obtain ⟨e, hmem, rfl, hlookup⟩ | ⟨-, hlookup⟩ := lookupCode_cases m w
  · cases hlookup.symm.trans h
    exact hmem
  · cases hlookup.symm.trans h

/-- Settles O14: a code word is a literal's or the pattern of an entry, and under maps with distinct
patterns of their class the lookup of a pattern finds its own entry (30_encoding.md R63 to R69). -/
theorem encodeDecodeRoundTripForEveryMap : Obligations.EncodeDecodeRoundTripForEveryMap := by
  intro opmap charmap hopDistinct hopClass hchDistinct hchClass
  refine ⟨fun i hwf => ?_, fun i w hencode => ?_, fun w i hdecode => ?_⟩
  · obtain ⟨n, rfl⟩ | ⟨hencode, hheld⟩ := encodeWith_cases opmap charmap i
    · exact ⟨_, rfl⟩
    · rw [hheld, ← patternOf_isSome, ← patternOf_isSome, ← Option.isSome_or] at hwf
      rw [hencode]
      exact Option.isSome_iff_exists.mp hwf
  · obtain ⟨n, rfl⟩ | ⟨hlookup, -⟩ := encodeWith_cases opmap charmap i
    · cases hencode
      exact decodeWith_push opmap charmap n
    · rw [hlookup, Option.or_eq_some_iff] at hencode
      obtain hop | ⟨-, hch⟩ := hencode
      · exact decodeWith_of_mem_opmap (e := (w, i)) charmap hopDistinct hopClass
          (mem_of_patternOf hop)
      · exact decodeWith_of_mem_charmap (e := (w, i)) opmap hchDistinct hchClass
          (mem_of_patternOf hch)
  · cases hclass : classOf w with
    | operand =>
      rw [decodeWith_of_operand _ _ hclass] at hdecode
      cases hdecode
      rfl
    | instruction =>
      rw [decodeWith_of_instruction _ _ hclass] at hdecode
      exact wf_of_mem (e := (w, i)) (.inl (mem_of_lookupCode hdecode))
    | character =>
      rw [decodeWith_of_character _ _ hclass] at hdecode
      exact wf_of_mem (e := (w, i)) (.inr (mem_of_lookupCode hdecode))

/-- The model's lookup is the library's: the first entry of the pattern (log 14). -/
theorem lookupCode_eq_lookup (m : CodeMap) (w : CodeWord) :
    lookupCode m w = ((m.lookup w).map Except.ok).getD (.error .unrecognized) := by
  induction m with
  | nil => rfl
  | cons e m ih =>
    by_cases hpattern : e.1 = w
    · subst hpattern
      simp [lookupCode, List.lookup]
    · have hrest : lookupCode (e :: m) w = lookupCode m w := by
        simp [lookupCode, hpattern]
      have hskip : (w == e.1) = false := beq_false_of_ne fun h => hpattern h.symm
      rw [hrest, ih, List.lookup_cons, hskip]

/-- A word whose first two bits are 0 is below 16. -/
theorem toNat_lt_of_elem : ∀ w : CodeWord, elem w 0 = false → elem w 1 = false → w.toNat < 16 := by
  decide

/-- Settles O15: the first two bits are the class, which selects the literal of the low four bits or
one of the maps (30_encoding.md R63, R64, R69). -/
theorem classBitsSelectTheDecoder : Obligations.ClassBitsSelectTheDecoder := by
  intro opmap charmap w
  refine ⟨fun hfirst hsecond => ⟨toNat_lt_of_elem w hfirst hsecond, ?_⟩, fun hfirst hsecond => ?_,
    fun hfirst => ?_⟩
  · have hclass : classOf w = .operand := by simp only [classOf, hfirst, hsecond]
    have hliteral : w.extractLsb' 0 4 = BitVec.ofNat 4 w.toNat :=
      BitVec.eq_of_toNat_eq (by simp)
    rw [decodeWith_of_operand _ _ hclass, hliteral]
  · have hclass : classOf w = .instruction := by simp only [classOf, hfirst, hsecond]
    rw [decodeWith_of_instruction _ _ hclass, lookupCode_eq_lookup]
  · have hclass : classOf w = .character := by simp only [classOf, hfirst]
    rw [decodeWith_of_character _ _ hclass, lookupCode_eq_lookup]

/-- The code word of every instruction but a literal stands in one of this hardware's maps
(30_encoding.md R66, R67). -/
theorem encode_mem (i : Instr) :
    (∃ n, i = .push n) ∨ (encode i, i) ∈ opmapReference ∨ (encode i, i) ∈ charmapReference := by
  cases i with
  | push n => exact .inl ⟨n, rfl⟩
  | stp | dup | del | swp | add | sub | mul | div | exp | mod | shl | shr | hex | ieq | not | xor =>
    exact .inr (.inl (by decide))
  | _ => exact .inr (.inr (by decide))

/-- Decoding an encoded instruction gives it back. -/
theorem decode_encode (i : Instr) : decode (encode i) = .ok i := by
  obtain ⟨n, rfl⟩ | hop | hch := encode_mem i
  · exact decode_push n
  · exact decode_of_mem_opmapReference hop
  · exact decode_of_mem_charmapReference hch

/-- Every word is the code word of an instruction: there are as many words as code words. -/
theorem exists_encode_eq (w : CodeWord) : ∃ i, encode i = w := by
  have hentry : ∀ e ∈ opmapReference ++ charmapReference, encode e.2 = e.1 := by decide
  obtain ⟨i, hdecode⟩ := exists_decode_eq_ok w
  cases hclass : classOf w with
  | operand =>
    have hword : ∀ w : CodeWord, classOf w = .operand → 0b00#2 ++ w.extractLsb' 0 4 = w := by decide
    exact ⟨.push (w.extractLsb' 0 4), hword w hclass⟩
  | instruction =>
    obtain ⟨e, hmem, rfl⟩ := List.mem_map.mp (mem_opmapReference_of_instruction w hclass)
    exact ⟨e.2, hentry e (List.mem_append_left _ hmem)⟩
  | character =>
    obtain ⟨e, hmem, rfl⟩ := List.mem_map.mp (mem_charmapReference_of_character w hclass)
    exact ⟨e.2, hentry e (List.mem_append_right _ hmem)⟩

/-- Settles O13: every word is the code word of an instruction, and a code word decodes to its
instruction (30_encoding.md R64 to R67). -/
theorem everyWordIsExactlyOneInstruction : Obligations.EveryWordIsExactlyOneInstruction := by
  refine ⟨fun w => ?_, decode_encode⟩
  obtain ⟨i, rfl⟩ := exists_encode_eq w
  exact ⟨i, decode_encode i, rfl⟩

namespace Machine

/-- Settles O19: the step takes the transaction, EXEC of the word is that of the decoded
instruction, and a next state is answered with its run state (10_state.md R40; 41_stack_ops.md R91).
-/
theorem stepRunsTheDecodedInstruction : Obligations.StepRunsTheDecodedInstruction := by
  intro s w rest i hpending hdecode _
  have hexecWord : execWord w (s.setPending rest) = exec i (s.setPending rest) := by
    rw [execWord, State.setPending_cfg, hdecode]
  obtain ⟨t, hexec⟩ := exists_exec_eq_next i (s.setPending rest)
  have hexec' : exec i { s with pending := rest } = .next t := hexec
  rw [step_exec_of_next hpending (hexecWord.trans hexec), hexec']
  rfl

/-- Settles O20 (60_exceptions.md R166; 70_reset_and_hazards.md R178). -/
theorem waitsWithoutATransaction : Obligations.WaitsWithoutATransaction :=
  fun _ => step_of_no_pending

end Machine
end Sys2Proof
end

section
/-! Cells as bits, the ports, and the assembler's lines (10_state.md R36; 20_memory.md R54;
30_encoding.md R72). -/

namespace Sys2Proof

/-- The word made of the elements of a word is that word, and there is none for another number of
elements (20_memory.md R54). -/
theorem ofElems_eq_some_iff {n : Nat} {bs : List Bool} {w : BitVec n} :
    ofElems n bs = some w ↔ bs = elems w := by
  constructor
  · intro h
    rw [ofElems] at h
    split at h
    · rename_i hlen
      cases h
      refine List.ext_getElem (by simp [hlen]) fun i hi _ => ?_
      simp [elems, elem_ofNat_uintOf bs hlen hi]
    · cases h
  · rintro rfl
    have hword : BitVec.ofNat n (uintOf (elems w)) = w := eq_of_elem_eq fun i => by
      rw [elem_ofNat_uintOf (elems w) (length_elems w) (by simp)]
      simp [elems]
    rw [ofElems, if_pos (length_elems w), hword]

namespace Machine

/-- Bits that are all defined are defined bits. -/
theorem eq_map_some_of_all_isSome {bs : List (Option Bool)} (h : bs.all Option.isSome = true) :
    bs = (bs.filterMap id).map some := by
  induction bs with
  | nil => rfl
  | cons b bs ih =>
    obtain ⟨hb, hbs⟩ : b.isSome = true ∧ bs.all Option.isSome = true := by simpa using h
    obtain ⟨c, rfl⟩ := Option.isSome_iff_exists.mp hb
    rw [List.filterMap_cons_some (f := id) (b := c) rfl, List.map_cons, ← ih hbs]

/-- A port accepts defined bits that are a transaction of its own, and nothing else
(93_implementation_defined.md I4, I9). -/
theorem accept_eq_ok_iff {p : Port} {bs : List (Option Bool)} {t : Transaction} :
    accept p bs = .ok t ↔ ∃ cs : List Bool, bs = cs.map some ∧ transactionOf p cs = some t := by
  constructor
  · intro h
    rw [accept] at h
    split at h
    · rename_i hdefined
      have hbits : bs = (bs.filterMap id).map some := eq_map_some_of_all_isSome hdefined
      split at h
      · rename_i t' htransaction
        cases h
        exact ⟨_, hbits, htransaction⟩
      · cases h
    · cases h
  · rintro ⟨cs, rfl, htransaction⟩
    have hdefined : (cs.map some).all Option.isSome = true := by simp
    have hbits : (cs.map some).filterMap id = cs := by simp [List.filterMap_map]
    rw [accept, if_pos hdefined, hbits, htransaction]

/-- A port that takes a word accepts exactly the elements of a word, for the transaction of that
word. -/
theorem accept_word_iff {p : Port} {n : Nat} {f : BitVec n → Transaction}
    (hport : ∀ cs, transactionOf p cs = (ofElems n cs).map f) {bs : List (Option Bool)}
    {t : Transaction} : accept p bs = .ok t ↔ ∃ w, t = f w ∧ bs = (elems w).map some := by
  simp only [accept_eq_ok_iff, hport, Option.map_eq_some_iff, ofElems_eq_some_iff]
  constructor
  · rintro ⟨_, rfl, w, rfl, rfl⟩
    exact ⟨w, rfl, rfl⟩
  · rintro ⟨w, rfl, rfl⟩
    exact ⟨_, rfl, w, rfl, rfl⟩

/-- A port that takes no word accepts exactly the empty input. -/
theorem accept_empty_iff {p : Port} {tr : Transaction}
    (hport : ∀ cs, transactionOf p cs = (ofElems 0 cs).map fun _ => tr) {bs : List (Option Bool)}
    {t : Transaction} : accept p bs = .ok t ↔ t = tr ∧ bs = [] := by
  rw [accept_word_iff hport]
  constructor
  · rintro ⟨w, ht, hbs⟩
    exact ⟨ht, hbs⟩
  · rintro ⟨ht, hbs⟩
    exact ⟨0#0, ht, hbs⟩

/-- Settles O17: EXEC, ENC and DEC take a word of their width, and TOP and RESET take none
(20_memory.md R54; 93_implementation_defined.md I4, I9). -/
theorem portsAcceptOnlyTheirWidth : Obligations.PortsAcceptOnlyTheirWidth :=
  fun _ => ⟨fun _ => accept_word_iff fun _ => rfl, fun _ => accept_word_iff fun _ => rfl,
    fun _ => accept_word_iff fun _ => rfl, fun _ => accept_empty_iff fun _ => rfl,
    fun _ => accept_empty_iff fun _ => rfl⟩

/-- The kind bit of a cell of 9 bits (10_state.md R36; log 20). -/
theorem elem_kind (k : BitVec 1) (u : Byte) : elem (k ++ u) 0 = elem k 0 :=
  elem_append_left k u Nat.one_pos

/-- Nine bits are their kind bit and their payload. -/
theorem kind_append_payload (b : BitVec 9) :
    BitVec.ofBool (elem b 0) ++ b.extractLsb' 0 8 = b := by
  refine eq_of_elem_eq fun i => ?_
  induction i using Fin.cases with
  | zero =>
    rw [Fin.val_zero, elem_append_left _ _ Nat.one_pos]
    simp [elem]
  | succ i =>
    have hpayload := elem_append_right (BitVec.ofBool (elem b 0)) (b.extractLsb' 0 8) i.val
    rw [elem_extractLsb' b (by decide) i.isLt] at hpayload
    have hindex : i.succ.val = 1 + i.val := Nat.add_comm _ _
    rw [hindex]
    exact hpayload

/-- The payload of a character cell names its token: the 27 codes are different. -/
theorem find_ascii (c : Token) : Token.all.find? (fun x => x.ascii == c.ascii) = some c := by
  cases c <;> rfl

/-- Nine bits with the kind bit 0 are the integer of their payload. -/
theorem cellOfBits_of_integer {b : BitVec 9} (h : elem b 0 = false) :
    cellOfBits b = .ok (.int (b.extractLsb' 0 8)) := by
  rw [cellOfBits, h]
  rfl

/-- Nine bits with the kind bit 1 are a cell exactly when their payload is the code of a token. -/
theorem cellOfBits_of_character {b : BitVec 9} {v : Cell} (h : elem b 0 = true) :
    cellOfBits b = .ok v ↔ ∃ c : Token, v = .chr c ∧ b.extractLsb' 0 8 = c.ascii := by
  rw [cellOfBits, h, if_pos rfl]
  constructor
  · intro hcell
    split at hcell
    · rename_i c hfind
      cases hcell
      have hascii : c.ascii = b.extractLsb' 0 8 := by simpa using List.find?_some hfind
      exact ⟨c, rfl, hascii.symm⟩
    · cases hcell
  · rintro ⟨c, rfl, hascii⟩
    rw [hascii, find_ascii]

/-- Settles O16: the kind bit tells the two forms apart, an integer is its payload and a character
the token of its code, whose place in the token set gives the code (10_state.md R36; I11). -/
theorem cellBitsRoundTrip : Obligations.CellBitsRoundTrip := by
  refine ⟨fun v => ?_, fun b v hcell => ?_, fun _ => rfl, fun k hk => ?_, rfl⟩
  · cases v with
    | int u =>
      have hpayload : (0b0#1 ++ u).extractLsb' 0 8 = u := BitVec.extractLsb'_append_eq_right
      rw [Cell.bits, cellOfBits_of_integer (elem_kind _ _), hpayload]
    | chr c =>
      exact (cellOfBits_of_character (elem_kind _ _)).mpr
        ⟨c, rfl, BitVec.extractLsb'_append_eq_right⟩
  · have hbits := kind_append_payload b
    cases hkind : elem b 0 with
    | false =>
      rw [cellOfBits_of_integer hkind] at hcell
      cases hcell
      rwa [hkind] at hbits
    | true =>
      obtain ⟨c, rfl, hpayload⟩ := (cellOfBits_of_character hkind).mp hcell
      rwa [hkind, hpayload] at hbits
  · obtain ⟨c, hc⟩ := Token.exists_getElem?_all hk
    exact ⟨c, hc, by rw [Cell.bits, Token.ascii_of_getElem?_all hk hc]⟩

/-- The line of every mnemonic without an operand (30_encoding.md R72). -/
theorem parseLine_plain :
    ∀ e ∈ plainMnemonics, parseLine e.1.toList = .ok (some e.2) := by decide

/-- The line of every character push (30_encoding.md R72). -/
theorem parseLine_chr :
    ∀ e ∈ chrOperands, parseLine ("CHR ".toList ++ e.1.toList) = .ok (some e.2) := by decide

/-- The line of every literal push (30_encoding.md R72). -/
theorem parseLine_push : ∀ n : BitVec 4, parseLine (sourceOf (.push n)) = .ok (some (.push n)) := by
  decide

/-- The line of every instruction but a literal push is that of an entry of one of the two tables.
-/
theorem sourceOf_cases (i : Instr) :
    (∃ n, i = .push n) ∨
    (∃ e ∈ chrOperands, e.2 = i ∧ sourceOf i = "CHR ".toList ++ e.1.toList) ∨
    (∃ e ∈ plainMnemonics, e.2 = i ∧ sourceOf i = e.1.toList) := by
  cases i with
  | push n => exact .inl ⟨n, rfl⟩
  | stp | dup | del | swp | add | sub | mul | div | exp | mod | shl | shr | hex | ieq | not | xor
  | nop0 | nop1 | nop2 | nop3 | speak => exact .inr (.inr (by decide))
  | _ => exact .inr (.inl (by decide))

/-- Settles O18: the line of an instruction is that of its table entry, and every line of the two
tables parses to its instruction (30_encoding.md R72). -/
theorem sourceLinesParseBack : Obligations.SourceLinesParseBack := by
  refine ⟨fun i => ?_, parseLine_plain ("NOP", .nop0) (by decide)⟩
  obtain ⟨n, rfl⟩ | ⟨e, hmem, rfl, hline⟩ | ⟨e, hmem, rfl, hline⟩ := sourceOf_cases i
  · exact parseLine_push n
  · rw [hline]
    exact parseLine_chr e hmem
  · rw [hline]
    exact parseLine_plain e hmem

end Machine
end Sys2Proof
end

section
/-! The combinations of the rows of a matrix, and how a row addition changes them
(40_codec.md R76). -/

namespace Sys2Proof.Machine

/-- The left 6 elements of a row, which lie in the block the elimination reduces. -/
def leftBits (v : BlockWord) : BitVec 6 := v.extractLsb' 4 6

/-- The combination of the rows of a matrix with the given coefficients. -/
def combination (M : GeneratorMatrix) (x : BitVec 6) : BlockWord := rowComb (elems x) M.toList

/-- The elements of the left block. -/
theorem elem_leftBits (v : BlockWord) (i : Fin 6) : elem (leftBits v) i = elem v i := by
  rw [leftBits, elem_extractLsb' v (by decide) i.isLt, Nat.sub_self, Nat.zero_add]

/-- The elements of a combination. -/
theorem elem_combination (M : GeneratorMatrix) (x : BitVec 6) (i : Nat) :
    elem (combination M x) i =
      ((List.finRange 6).map fun r : Fin 6 => elem x r && elem M[r] i).foldl Bool.xor false :=
  elem_rowComb_elems x M i

/-- A combination is linear in its coefficients. -/
theorem combination_xor (M : GeneratorMatrix) (x y : BitVec 6) :
    combination M (x ^^^ y) = combination M x ^^^ combination M y := by
  rw [combination, elems_xor, rowComb_xor _ _ _ (by simp), combination, combination]

/-- A unit vector picks a row. -/
theorem combination_unitVec (M : GeneratorMatrix) (j : Fin 6) :
    combination M (unitVec 6 j.val) = M[j] :=
  rowComb_unitVec j M

/-- The left block of a combination is the combination of the left blocks of the rows. -/
theorem leftBits_combination (M : GeneratorMatrix) (x : BitVec 6) :
    leftBits (combination M x) =
      rowComb (elems x) (M.toList.map fun row => row.extractLsb' 4 6) := by
  refine eq_of_elem_eq fun i => ?_
  have hrow (r : BlockWord) : elem (r.extractLsb' 4 6) i = elem r i := elem_leftBits r i
  rw [elem_leftBits, combination, elem_rowComb, elem_rowComb, List.zipWith_map_right]
  simp only [hrow]

/-- The left block is linear. -/
theorem leftBits_xor (v w : BlockWord) : leftBits (v ^^^ w) = leftBits v ^^^ leftBits w :=
  eq_of_elem_eq fun i => by simp only [elem_xor, elem_leftBits]

/-- The rows after a row addition. -/
theorem getElem_addRow (M : GeneratorMatrix) (dst src r : Fin 6) :
    (addRow M dst src)[r] = if r = dst then M[dst] ^^^ M[src] else M[r] := by
  by_cases h : r = dst
  · subst h
    simp [addRow]
  · have hne : dst.val ≠ r.val := fun heq => h (Fin.ext heq.symm)
    simp [addRow, h, Vector.getElem_set_ne, hne]

/-- The elements after a row addition. -/
theorem elem_addRow (M : GeneratorMatrix) (dst src r : Fin 6) (k : Nat) :
    elem (addRow M dst src)[r] k = (elem M[r] k ^^ (elem M[src] k && decide (dst = r))) := by
  rw [getElem_addRow]
  by_cases h : r = dst
  · subst h
    simp
  · simp [h, Ne.symm h]

/-- The coefficients, before a row addition, of a combination of the rows after it: the added row is
counted once more with its destination. -/
def shear (dst src : Fin 6) (x : BitVec 6) : BitVec 6 := if elem x dst then flipAt x src else x

/-- The combinations after a row addition. -/
theorem combination_addRow (M : GeneratorMatrix) (dst src : Fin 6) (x : BitVec 6) :
    combination (addRow M dst src) x = combination M (shear dst src x) := by
  have hadded : combination (addRow M dst src) x =
      combination M x ^^^ (if elem x dst then M[src] else 0#10) := by
    refine eq_of_elem_eq fun i => ?_
    have hpick := foldl_xor_map_and_decide (fun r : Fin 6 => elem x r && elem M[src] i) dst
      (List.nodup_finRange 6)
    have hterm (r : Fin 6) : (elem x r && elem (addRow M dst src)[r] i) =
        ((elem x r && elem M[r] i) ^^ ((elem x r && elem M[src] i) && decide (dst = r))) := by
      rw [elem_addRow, Bool.and_xor_distrib_left, Bool.and_assoc]
    rw [elem_xor, elem_combination, elem_combination]
    simp only [hterm, foldl_xor_map_xor, hpick]
    cases elem x dst <;> simp
  rw [hadded, shear]
  split
  · rw [flipAt, combination_xor, combination_unitVec]
  · rw [BitVec.xor_zero]

/-- A row addition is undone by itself. -/
theorem shear_involutive {dst src : Fin 6} (h : dst ≠ src) :
    Function.Involutive (shear dst src) := by
  intro x
  have hkept : elem (flipAt x src) dst = elem x dst := by simp [elem_flipAt, h]
  by_cases hx : elem x dst = true
  · have hflipped : shear dst src x = flipAt x src := if_pos hx
    rw [hflipped, shear, hkept, if_pos hx, flipAt, flipAt, BitVec.xor_assoc, BitVec.xor_self,
      BitVec.xor_zero]
  · have hsame : shear dst src x = x := if_neg hx
    rw [hsame, hsame]

/-- Two matrices have the same combinations, up to a one-to-one change of the coefficients. -/
def RowEquivalent (M N : GeneratorMatrix) : Prop :=
  ∃ f : BitVec 6 ≃ BitVec 6, ∀ x, combination N x = combination M (f x)

theorem rowEquivalent_refl (M : GeneratorMatrix) : RowEquivalent M M := ⟨.refl _, fun _ => rfl⟩

theorem rowEquivalent_trans {L M N : GeneratorMatrix} (h : RowEquivalent L M)
    (h' : RowEquivalent M N) : RowEquivalent L N := by
  obtain ⟨f, hf⟩ := h
  obtain ⟨g, hg⟩ := h'
  exact ⟨g.trans f, fun x => (hg x).trans (hf (g x))⟩

/-- A row addition keeps the combinations. -/
theorem rowEquivalent_addRow (M : GeneratorMatrix) {dst src : Fin 6} (h : dst ≠ src) :
    RowEquivalent M (addRow M dst src) :=
  ⟨(shear_involutive h).toPerm, combination_addRow M dst src⟩

/-- Different coefficients give combinations with different left blocks. -/
def Nonsingular (M : GeneratorMatrix) : Prop :=
  Function.Injective fun x => leftBits (combination M x)

/-- Row equivalent matrices are nonsingular together. -/
theorem nonsingular_iff_of_rowEquivalent {M N : GeneratorMatrix} (h : RowEquivalent M N) :
    Nonsingular N ↔ Nonsingular M := by
  obtain ⟨f, hf⟩ := h
  have hcomp : (fun x => leftBits (combination N x)) =
      (fun x => leftBits (combination M x)) ∘ f := funext fun x => congrArg leftBits (hf x)
  rw [Nonsingular, hcomp]
  exact Function.Injective.of_comp_iff' _ f.bijective

/-- A matrix is singular exactly when some nonzero combination has a zero left block. -/
theorem not_nonsingular_iff (M : GeneratorMatrix) :
    ¬ Nonsingular M ↔ ∃ x, x ≠ 0#6 ∧ leftBits (combination M x) = 0#6 := by
  have hlinear (x y : BitVec 6) : leftBits (combination M (x ^^^ y)) =
      leftBits (combination M x) ^^^ leftBits (combination M y) := by
    rw [combination_xor, leftBits_xor]
  constructor
  · intro h
    obtain ⟨x, y, heq, hne⟩ := Function.not_injective_iff.mp h
    exact ⟨x ^^^ y, fun hzero => hne (BitVec.xor_eq_zero_iff.mp hzero),
      (hlinear x y).trans (BitVec.xor_eq_zero_iff.mpr heq)⟩
  · rintro ⟨x, hne, hzero⟩ hinjective
    have hself : leftBits (combination M 0#6) = 0#6 := by
      simpa using hlinear 0#6 0#6
    exact hne (hinjective (hzero.trans hself.symm))

end Sys2Proof.Machine
end

section
/-! The elimination (40_codec.md R76): each round keeps the combinations of the rows and makes one
more column that of the identity, or finds the left block singular. -/

namespace Sys2Proof.Machine

/-- The columns before `c` are those of the identity. -/
def Cleared (c : Nat) (M : GeneratorMatrix) : Prop :=
  ∀ k r : Fin 6, k.val < c → elem M[r] k = decide (k = r)

/-- In a cleared column a combination shows its coefficient. -/
theorem elem_combination_of_cleared {c : Nat} {M : GeneratorMatrix} (h : Cleared c M) {k : Fin 6}
    (hk : k.val < c) (x : BitVec 6) : elem (combination M x) k = elem x k := by
  have hcolumn (r : Fin 6) : elem M[r] k = decide (k = r) := h k r hk
  have hpick := foldl_xor_map_and_decide (fun r : Fin 6 => elem x r) k (List.nodup_finRange 6)
  simp only [elem_combination, hcolumn, hpick]
  simp

/-- A sum of zeros is zero. -/
theorem foldl_xor_map_eq_false {α : Type} {f : α → Bool} (h : ∀ j, f j = false) (l : List α) :
    (l.map f).foldl Bool.xor false = false := by
  induction l with
  | nil => rfl
  | cons j l ih => rw [List.map_cons, foldl_xor_cons, ih, h j, Bool.xor_self]

/-- Without a pivot the left block is singular: no combination has the unit vector of the column,
since its coefficients would be zero before the column, and the column is zero from there on. -/
theorem not_nonsingular_of_no_pivot {M : GeneratorMatrix} {c : Fin 6} (hcleared : Cleared c M)
    (hpivot : ∀ r : Fin 6, c ≤ r → elem M[r] c = false) : ¬ Nonsingular M := by
  intro hinjective
  obtain ⟨x, hx⟩ := Finite.surjective_of_injective hinjective (unitVec 6 c.val)
  have hunit (k : Fin 6) : elem (combination M x) k = decide (k = c) := by
    rw [← elem_leftBits, ← elem_unitVec c k]
    exact congrArg (fun v => elem v k) hx
  have hbefore (r : Fin 6) (hr : r < c) : elem x r = false := by
    rw [← elem_combination_of_cleared hcleared hr x, hunit]
    exact decide_eq_false hr.ne
  have hterm (r : Fin 6) : (elem x r && elem M[r] c) = false := by
    obtain hr | hr := lt_or_ge r c
    · rw [hbefore r hr, Bool.false_and]
    · rw [hpivot r hr, Bool.and_false]
  have hcolumn := hunit c
  rw [elem_combination, foldl_xor_map_eq_false hterm] at hcolumn
  simp at hcolumn

/-- Everything the pivot step can do: a matrix with a 1 in the pivot place, itself or with a lower
row added, or no row from the pivot on has a 1 in the column. -/
theorem pivotStep_cases (M : GeneratorMatrix) (c : Fin 6) :
    (∃ N, pivotStep M c = some N ∧ elem N[c] c = true ∧
      (N = M ∨ ∃ r, c < r ∧ N = addRow M c r)) ∨
    (pivotStep M c = none ∧ ∀ r : Fin 6, c ≤ r → elem M[r] c = false) := by
  cases hpivot : elem M[c] c with
  | true => exact .inl ⟨M, if_pos hpivot, hpivot, .inl rfl⟩
  | false =>
    rw [pivotStep, hpivot, if_neg Bool.false_ne_true]
    cases hfind : (List.finRange 6).find? fun r => decide (c < r) && elem M[r] c.val with
    | some r =>
      obtain ⟨hr, hone⟩ : c < r ∧ elem M[r] c = true := by simpa using List.find?_some hfind
      refine .inl ⟨_, rfl, ?_, .inr ⟨r, hr, rfl⟩⟩
      rw [elem_addRow, hpivot, hone, decide_eq_true rfl, Bool.and_true, Bool.false_xor]
    | none =>
      refine .inr ⟨rfl, fun r hr => ?_⟩
      obtain rfl | hlt := hr.eq_or_lt
      · exact hpivot
      · have hzero := List.find?_eq_none.mp hfind r (List.mem_finRange r)
        simpa [hlt] using hzero

/-- One step of the clearing loop. -/
def clearRow (c : Fin 6) (M : GeneratorMatrix) (r : Fin 6) : GeneratorMatrix :=
  if r ≠ c ∧ elem M[r] c.val = true then addRow M r c else M

/-- The clearing loop is its steps on all rows. -/
theorem clearColumn_eq_foldl (M : GeneratorMatrix) (c : Fin 6) :
    clearColumn M c = (List.finRange 6).foldl (clearRow c) M := rfl

/-- The rows after one step of the clearing loop. -/
theorem getElem_clearRow (c : Fin 6) (M : GeneratorMatrix) (r q : Fin 6) :
    (clearRow c M r)[q] = if q = r ∧ q ≠ c ∧ elem M[q] c = true then M[q] ^^^ M[c] else M[q] := by
  rw [clearRow]
  by_cases hq : q = r
  · subst hq
    by_cases hclear : q ≠ c ∧ elem M[q] c.val = true
    · rw [if_pos hclear, if_pos ⟨rfl, hclear⟩, getElem_addRow, if_pos rfl]
    · rw [if_neg hclear, if_neg fun h => hclear h.2]
  · have hkept : ¬ (q = r ∧ q ≠ c ∧ elem M[q] c.val = true) := fun h => hq h.1
    rw [if_neg hkept]
    split
    · rw [getElem_addRow, if_neg hq]
    · rfl

/-- The rows after the clearing loop has run over some rows: the pivot row is added to those of them
that have a 1 in the column. -/
theorem getElem_foldl_clearRow (c : Fin 6) {l : List (Fin 6)} (hnodup : l.Nodup)
    (M : GeneratorMatrix) (q : Fin 6) :
    (l.foldl (clearRow c) M)[q] =
      if q ∈ l ∧ q ≠ c ∧ elem M[q] c = true then M[q] ^^^ M[c] else M[q] := by
  induction l generalizing M with
  | nil => simp
  | cons r l ih =>
    obtain ⟨hr, hl⟩ := List.nodup_cons.mp hnodup
    have hpivot : (clearRow c M r)[c] = M[c] := by
      rw [getElem_clearRow, if_neg fun h => h.2.1 rfl]
    rw [List.foldl_cons, ih hl, hpivot]
    by_cases hq : q = r
    · subst hq
      rw [if_neg fun h => hr h.1, getElem_clearRow]
      simp
    · have hkept : (clearRow c M r)[q] = M[q] := by
        rw [getElem_clearRow, if_neg fun h => hq h.1]
      rw [hkept]
      simp [hq]

/-- The rows after the clearing loop. -/
theorem getElem_clearColumn (M : GeneratorMatrix) (c q : Fin 6) :
    (clearColumn M c)[q] = if q ≠ c ∧ elem M[q] c = true then M[q] ^^^ M[c] else M[q] := by
  rw [clearColumn_eq_foldl, getElem_foldl_clearRow c (List.nodup_finRange 6)]
  simp

/-- The clearing loop keeps the combinations. -/
theorem rowEquivalent_foldl_clearRow (c : Fin 6) (l : List (Fin 6)) (M : GeneratorMatrix) :
    RowEquivalent M (l.foldl (clearRow c) M) := by
  induction l generalizing M with
  | nil => exact rowEquivalent_refl M
  | cons r l ih =>
    have hstep : RowEquivalent M (clearRow c M r) := by
      rw [clearRow]
      split
      · rename_i hclear
        exact rowEquivalent_addRow M hclear.1
      · exact rowEquivalent_refl M
    exact rowEquivalent_trans hstep (ih (clearRow c M r))

/-- The clearing loop clears the pivot column and keeps the cleared ones, in which the pivot row is
zero. -/
theorem cleared_clearColumn {M : GeneratorMatrix} {c : Fin 6} (hcleared : Cleared c M)
    (hpivot : elem M[c] c = true) : Cleared (c + 1) (clearColumn M c) := by
  intro k r hk
  rw [getElem_clearColumn]
  obtain hlt | heq := Nat.lt_succ_iff_lt_or_eq.mp hk
  · have hzero : elem M[c] k = false := by
      rw [hcleared k c hlt]
      exact decide_eq_false (Fin.ne_of_lt hlt)
    split
    · rw [elem_xor, hzero, Bool.xor_false, hcleared k r hlt]
    · exact hcleared k r hlt
  · obtain rfl : k = c := Fin.ext heq
    by_cases hr : r = k
    · rw [if_neg fun h => h.1 hr, hr, hpivot, decide_eq_true rfl]
    · rw [decide_eq_false (Ne.symm hr)]
      split
      · rename_i hone
        rw [elem_xor, hone.2, hpivot, Bool.xor_self]
      · rename_i hzero
        exact Bool.eq_false_iff.mpr fun hone => hzero ⟨hr, hone⟩

/-- The matrix that the elimination of a seed has reached before column `c`. -/
structure Reduced (seed : GeneratorMatrix) (c : Nat) (M : GeneratorMatrix) : Prop where
  equivalent : RowEquivalent seed M
  cleared : Cleared c M

/-- A pivot step that succeeds keeps what is reached. -/
theorem reduced_of_pivotStep {seed M N : GeneratorMatrix} {c : Fin 6} (h : Reduced seed c M)
    (hN : N = M ∨ ∃ r, c < r ∧ N = addRow M c r) : Reduced seed c N := by
  obtain rfl | ⟨r, hr, rfl⟩ := hN
  · exact h
  · refine ⟨rowEquivalent_trans h.equivalent (rowEquivalent_addRow M hr.ne), fun k q hk => ?_⟩
    have hzero : elem M[r] k = false := by
      rw [h.cleared k r hk]
      exact decide_eq_false (Fin.ne_of_lt (hk.trans hr))
    rw [elem_addRow, hzero, Bool.false_and, Bool.xor_false, h.cleared k q hk]

/-- Everything one round of the elimination can do. -/
theorem eliminateColumn_cases {seed M : GeneratorMatrix} {c : Fin 6} (h : Reduced seed c M) :
    (∃ N, eliminateColumn M c = some N ∧ Reduced seed (c + 1) N) ∨
    (eliminateColumn M c = none ∧ ¬ Nonsingular seed) := by
  rw [eliminateColumn]
  obtain ⟨N, hstep, hpivot, hN⟩ | ⟨hstep, hnone⟩ := pivotStep_cases M c
  · have hreached : Reduced seed c N := reduced_of_pivotStep h hN
    refine .inl ⟨clearColumn N c, by rw [hstep, Option.map_some], ?_, ?_⟩
    · exact rowEquivalent_trans hreached.equivalent (rowEquivalent_foldl_clearRow c _ N)
    · exact cleared_clearColumn hreached.cleared hpivot
  · refine .inr ⟨by rw [hstep, Option.map_none], ?_⟩
    rw [← nonsingular_iff_of_rowEquivalent h.equivalent]
    exact not_nonsingular_of_no_pivot h.cleared hnone

/-- A loop over all indices that may fail: what each round keeps holds at the end, and a failure is
the failure of a round. -/
theorem foldlM_finRange_cases {α : Type} {n : Nat} {f : α → Fin n → Option α} {I : Nat → α → Prop}
    {Fail : Prop} (hround : ∀ (c : Fin n) (a : α), I c a →
      (∃ b, f a c = some b ∧ I (c + 1) b) ∨ (f a c = none ∧ Fail)) {a : α} (ha : I 0 a) :
    (∃ b, (List.finRange n).foldlM f a = some b ∧ I n b) ∨
    ((List.finRange n).foldlM f a = none ∧ Fail) := by
  induction n with
  | zero => exact .inl ⟨a, rfl, ha⟩
  | succ n ih =>
    rw [List.finRange_succ_last, List.foldlM_append, List.foldlM_map]
    obtain ⟨b, hb, hIb⟩ | ⟨hnone, hfail⟩ := ih fun c a => hround c.castSucc a
    · obtain ⟨b', hb', hIb'⟩ | ⟨hnone, hfail⟩ := hround (Fin.last n) b hIb
      · exact .inl ⟨b', by simp [hb, hb'], hIb'⟩
      · exact .inr ⟨by simp [hb, hnone], hfail⟩
    · exact .inr ⟨by simp [hnone], hfail⟩

/-- The elimination reaches a matrix with all six columns cleared, or the seed is singular. -/
theorem systematic_cases (seed : GeneratorMatrix) :
    (∃ G, systematic seed = some G ∧ Reduced seed 6 G) ∨
    (systematic seed = none ∧ ¬ Nonsingular seed) :=
  foldlM_finRange_cases (I := Reduced seed) (fun _ _ => eliminateColumn_cases)
    ⟨rowEquivalent_refl seed, fun _ _ hk => absurd hk (Nat.not_lt_zero _)⟩

/-- With all six columns cleared, the left block of a combination is its coefficients. -/
theorem leftBits_combination_of_cleared {G : GeneratorMatrix} (h : Cleared 6 G) (x : BitVec 6) :
    leftBits (combination G x) = x :=
  eq_of_elem_eq fun k => (elem_leftBits _ k).trans (elem_combination_of_cleared h k.isLt x)

/-- A matrix with all six columns cleared is systematic: `[I|P]` for its own last four columns. -/
theorem eq_generatorOf_of_cleared {G : GeneratorMatrix} (h : Cleared 6 G) :
    G = generatorOf (parityBlockOf G) := by
  refine Vector.ext fun j hj => eq_of_elem_eq fun i => ?_
  have hrow : (generatorOf (parityBlockOf G))[j] = unitVec 6 j ++ (parityBlockOf G)[j] :=
    generatorOf_row (parityBlockOf G) ⟨j, hj⟩
  rw [hrow]
  induction i using Fin.addCases (m := 6) (n := 4) with
  | left k =>
    calc elem G[j] k
      _ = decide (k = ⟨j, hj⟩) := h k ⟨j, hj⟩ k.isLt
      _ = elem (unitVec 6 j) k := (elem_unitVec ⟨j, hj⟩ k).symm
      _ = _ := (elem_append_left _ _ k.isLt).symm
  | right k =>
    have hparity : (parityBlockOf G)[j] = G[j].extractLsb' 0 4 := by simp [parityBlockOf]
    calc elem G[j] (6 + k)
      _ = elem (G[j].extractLsb' 0 4) k :=
        (elem_extractLsb' (start := 0) G[j] (by decide) k.isLt).symm
      _ = elem (parityBlockOf G)[j] k := by rw [hparity]
      _ = _ := (elem_append_right _ _ k.val).symm

/-- Settles O2: the elimination keeps the combinations of the rows, so each row of the seed is one
of the rows of `G`, and its coefficients stand in its own left block (40_codec.md R76). -/
theorem eliminationGivesInverseTimesSeed : Obligations.EliminationGivesInverseTimesSeed := by
  intro seed G hG
  obtain ⟨N, heq, ⟨f, hf⟩, hcleared⟩ | ⟨hnone, -⟩ := systematic_cases seed
  · obtain rfl : N = G := Option.some.inj (heq.symm.trans hG)
    refine ⟨eq_generatorOf_of_cleared hcleared, fun i => ?_⟩
    have hcombination : combination N (f.symm (unitVec 6 i.val)) = seed[i] := by
      rw [hf, Equiv.apply_symm_apply, combination_unitVec]
    have hcoefficients : leftBits seed[i] = f.symm (unitVec 6 i.val) := by
      rw [← hcombination, leftBits_combination_of_cleared hcleared]
    calc rowComb (elems (seed[i].extractLsb' 4 6)) N.toList
      _ = combination N (leftBits seed[i]) := rfl
      _ = seed[i] := by rw [hcoefficients, hcombination]
  · rw [hnone] at hG
    cases hG

/-- Settles O3: a seed that is reduced to the identity on the left is nonsingular, and a failure
shows a singular seed (40_codec.md R76). -/
theorem eliminationRefusesExactlySingularSeeds :
    Obligations.EliminationRefusesExactlySingularSeeds := by
  intro seed
  simp only [← leftBits_combination, ← not_nonsingular_iff]
  obtain ⟨G, heq, hequivalent, hcleared⟩ | ⟨hnone, hsingular⟩ := systematic_cases seed
  · have hnonsingular : Nonsingular seed := by
      rw [← nonsingular_iff_of_rowEquivalent hequivalent]
      exact Function.LeftInverse.injective (g := id) (leftBits_combination_of_cleared hcleared)
    simp [heq, hnonsingular]
  · simp [hnone, hsingular]

end Sys2Proof.Machine
end
